-- ==== Sys2Proof/Word.lean ====
section
/-! DEFINITION. The words of the block (00_scope.md R7: bit 0 is the least significant bit, 32-bit arithmetic wraps). -/

namespace Sys2Proof

/-- A host register, an operand, an address (00_scope.md R4, `XW` = 32). -/
abbrev Word := BitVec 32

/-- A byte of the data window or of the buffer (20_memory.md R45). -/
abbrev Byte := BitVec 8

/-- A divisor code, 0 to 7 (00_scope.md R4, `NCODE` = 8). -/
abbrev DivCode := BitVec 3

/-- A JEDEC id (00_scope.md R4, `ID_BITS` = 24). -/
abbrev JedecId := BitVec 24

end Sys2Proof
end

