-- ==== Sys2Proof/Config.lean ====
section
/-! DEFINITION. What an implementation fixes (00_scope.md R4) and the free values. A constant without a body has no
value a proof could use: a claim that mentions one holds whatever it is. -/

namespace Sys2Proof

/-- One row of `PART_TABLE` (10_state.md R32). The three ceilings are natural numbers in the unit of `EffFreq` (R105). -/
structure PartRow where
  id           : JedecId
  capacity     : Word
  sectors      : Word
  eraseSize    : Word
  dummy        : Byte
  writeCeiling : Nat
  eraseCeiling : Nat
  readCeiling  : Nat
  deriving DecidableEq, Repr

/-- The OPEN parameters of R4 that are plain data. "A named parameter the model takes as an argument": the step's
type is fixed by the host, so they stand in State, and no step changes them (log 6). `freqs` lists known values of
`EffFreq`; every other word's value is `Config.effFreq` (log 7). -/
structure Params where
  table : List PartRow
  freqs : List (Word × Nat)
  deriving DecidableEq, Repr

/-- `T_CTRL` (R4): the settle delay after every control write, in time-units. -/
def Config.tCtrl : Nat := 100

/-- `T_BYTE` (R4): the settle delay after every byte written to the data window, in time-units. -/
def Config.tByte : Nat := 10

/-- `PAGE` (R4): the page boundary of the buffered write. -/
def Config.page : Nat := 256

/-- `ID_DIV` (R4): the divisor code of the read-ID transaction. -/
def Config.idDiv : DivCode := 0

/-- FREE VALUE. The `k`-th answer of the part oracle where State lists none (R5, U5; log 3). -/
opaque Config.partAnswer : Nat → Word

/-- FREE VALUE. The `busy_reads` the reference part draws (93_implementation_defined.md K4; log 5). -/
opaque Config.partBusy : Nat → Nat

/-- FREE VALUE. `EffFreq` (R4, R105), for a word that `Params.freqs` does not list (log 7). -/
opaque Config.effFreq : Word → Nat

/-- FREE VALUES. The four cells of the W25X16 row that no source gives (41_identification.md R102; log 6). -/
opaque Config.w25x16Dummy : Byte
opaque Config.w25x16WriteCeiling : Nat
opaque Config.w25x16EraseCeiling : Nat
opaque Config.w25x16ReadCeiling : Nat

/-- FREE VALUES. The word indexes behind `CTRL_ADDR` and `CLKCFG_ADDR`: both are 4-byte aligned "by requirement on the
parameters" (20_memory.md R46), so the parameter is the address divided by 4 (log 30). -/
opaque Config.ctrlIndex : BitVec 30
opaque Config.clkCfgIndex : BitVec 30

/-- FREE VALUE. `HOST_BASE` (R4, R27; log 30). -/
opaque Config.hostBase : Word

/-- `CTRL_ADDR` (R4). -/
def Config.ctrlAddr : Word := Config.ctrlIndex ++ 0#2

/-- `CLKCFG_ADDR` (R4). -/
def Config.clkCfgAddr : Word := Config.clkCfgIndex ++ 0#2

/-- The row the source gives (R102): id 0x1530EF, capacity 0x200000, 32 sectors of 0x10000 bytes. -/
def Config.w25x16 : PartRow where
  id           := 0x1530EF
  capacity     := 0x200000
  sectors      := 32
  eraseSize    := 0x10000
  dummy        := Config.w25x16Dummy
  writeCeiling := Config.w25x16WriteCeiling
  eraseCeiling := Config.w25x16EraseCeiling
  readCeiling  := Config.w25x16ReadCeiling

/-- The parameters `State.reset` carries: the least table R102 allows, and no known frequency (log 6). -/
def Config.params : Params where
  table := [Config.w25x16]
  freqs := []

/-- The `MAX_SECTORS` of `State.reset`: the least R4 allows ("at least 32"; log 6). -/
def Config.maxSectors : Nat := 32

end Sys2Proof
end

