-- ==== Sys2Proof/Syntax.lean ====
section
/-! DEFINITION. The operations of the block, one constructor per row of spec/opcode_table.json (30_encoding.md R66, R67),
and the names that its encoded words are made of. -/

namespace Sys2Proof

/-- The four bus modes of the control word (30_encoding.md R61). -/
inductive BusMode where
  | normalRead
  | fastRead
  | normalWrite
  | userMode
  deriving DecidableEq, Repr

/-- The chip-select level of the control word (R61): low selects the part. -/
inductive ChipSelect where
  | low
  | high
  deriving DecidableEq, Repr

/-- The two kinds of encoded operation: a command word the host writes to `CMD` (R65), or the bytes of a transaction
the sequencer sends through the data window (R62). -/
inductive Space where
  | command
  | wire
  deriving DecidableEq, Repr

/-- The formats of an operation (R60, R62, R65). -/
inductive Format where
  | cmdw
  | w1
  | w2
  | w4
  | w4n
  deriving DecidableEq, Repr

/-- The operations. The host commands carry no operand: theirs are in `ARG0..2` (R65). The transactions carry the
bytes after the opcode that the opcode's format fixes (R62); the data bytes of a page program come from the buffer as
they are sent (R69, log 26), and the arguments of a status poll are not encoded (R66). -/
inductive Instr where
  /-- `IDENT` (R111). -/
  | ident
  /-- `WREN` (R120). -/
  | wren
  /-- `WRSR` (R121). -/
  | wrsr
  /-- `PP` (R122). -/
  | pp
  /-- `SE` (R123). -/
  | se
  /-- `RESET` (R124). -/
  | reset
  /-- `ERASE` (R140). -/
  | erase
  /-- `WBUF` (R145). -/
  | wbuf
  /-- `RBUF` (R147). -/
  | rbuf
  /-- `RDID`, opcode 0x9F (R100). -/
  | rdid
  /-- `SPI_WREN`, opcode 0x06: the transaction of step E1 (R120). -/
  | spiWren
  /-- `SPOLL`, opcode 0x05 (R85). -/
  | spoll
  /-- `SPI_WRSR`, opcode 0x01 and the status value: the transaction of step S2 (R121). -/
  | spiWrsr (v : Byte)
  /-- `SPI_PP`, opcode 0x02 and the address bytes, high first: steps G2 to G11 (R122). -/
  | spiPp (a2 a1 a0 : Byte)
  /-- `SPI_SE`, opcode 0xD8 and the address bytes, high first: the transaction of step X2 (R123). -/
  | spiSe (a2 a1 a0 : Byte)
  deriving DecidableEq, Repr

/-- Which kind of encoded word an operation has. -/
def Instr.space : Instr → Space
  | .ident | .wren | .wrsr | .pp | .se | .reset | .erase | .wbuf | .rbuf => .command
  | .rdid | .spiWren | .spoll | .spiWrsr _ | .spiPp _ _ _ | .spiSe _ _ _ => .wire

/-- The format of each operation (the "format" column of the opcode table). -/
def Instr.format : Instr → Format
  | .ident | .wren | .wrsr | .pp | .se | .reset | .erase | .wbuf | .rbuf => .cmdw
  | .rdid | .spiWren | .spoll => .w1
  | .spiWrsr _ => .w2
  | .spiSe _ _ _ => .w4
  | .spiPp _ _ _ => .w4n

/-- The registers of the host register file (10_state.md R27). -/
inductive HostReg where
  | cmd
  | status
  | arg0
  | arg1
  | arg2
  | bankBase
  | result0
  | result1
  | id
  | size
  | nsect
  | secsz
  | divs
  | dflags
  | protIdx
  | protData
  deriving DecidableEq, Repr

/-- What the host does next (00_scope.md R5, 30_encoding.md R73). The list of these in State is the host's program and
the schedule of the two agents at once (log 2). -/
inductive HostAction where
  /-- Write `v` to the register at byte offset `off` from `HOST_BASE`. -/
  | write (off v : Word)
  /-- Read the register at byte offset `off` from `HOST_BASE`. -/
  | read (off : Word)
  /-- Poll `STATUS` until `BUSY` is 0. -/
  | wait
  /-- Let the sequencer make one step. -/
  | pass
  /-- Assert the reset input (70_reset_and_hazards.md R180). -/
  | hwReset
  /-- Store a byte in the host's own memory, the buffer (20_memory.md R40; log 31). -/
  | store (a : Word) (b : Byte)
  /-- The SoC clock-configuration register takes the value `w` (00_scope.md R3a; log 31). -/
  | clock (w : Word)
  deriving DecidableEq, Repr

end Sys2Proof
end

