-- ==== Sys2Proof/Machine/State.lean ====
section
/-! DEFINITION. The state of the block and of what its rules name outside it (10_state.md), as plain data, and the state
right after reset (70_reset_and_hazards.md R181, R182). -/

namespace Sys2Proof.Machine

/-- Bytes by address: a list of cells whose addresses rise strictly and whose bytes differ from what an unlisted address
reads as (`Memory.wf` in Ops.lean). -/
abbrev Memory := List Host.Cell

/-- One frame of `POS` (10_state.md R25): a procedure and the step it is at. The encoding of `POS` is free; here a frame
also carries the arguments of its call, in the operand order of R66, and its loop counter (log 1). -/
structure Frame where
  op   : Instr
  step : Nat
  a0   : Word
  a1   : Word
  a2   : Word
  k    : Nat
  deriving DecidableEq, Repr

/-- A port action (00_scope.md R6, R8). A data-window action carries the address it is made at, `DATA_ADDR`. -/
inductive PortAction where
  | ctrlWrite (w : Word)
  | delay (n : Nat)
  | dataWrite8 (a : Word) (b : Byte)
  | dataRead8 (a : Word) (b : Byte)
  | dataRead32 (a w : Word)
  | winRead32 (a w : Word)
  | winRead8 (a : Word) (b : Byte)
  | clkCfgRead (w : Word)
  | bufRead8 (a : Word) (b : Byte)
  | bufWrite8 (a : Word) (b : Byte)
  deriving DecidableEq, Repr

/-- The command interface registers (R11 to R16) and `PROT_IDX` (R22). `STATUS` is kept as its three fields (R13). -/
structure HostRegs where
  cmd      : Word
  busy     : Bool
  done     : Bool
  rc       : BitVec 2
  arg0     : Word
  arg1     : Word
  arg2     : Word
  bankBase : Word
  result0  : Word
  result1  : Word
  protIdx  : Word
  deriving DecidableEq, Repr

/-- The descriptor registers (R17 to R21, R33). `DIVS` and `DFLAGS` are kept as their fields. -/
structure Descriptor where
  id         : Word
  size       : Word
  nsect      : Word
  secsz      : Word
  wdiv       : DivCode
  ediv       : DivCode
  rdiv       : DivCode
  dummy      : Byte
  unknown    : Bool
  calSat     : Bool
  identified : Bool
  deriving DecidableEq, Repr

/-- The working registers (R26). -/
structure WorkRegs where
  a0   : Word
  a1   : Word
  a2   : Word
  off  : Word
  src  : Word
  dst  : Word
  cnt  : Word
  n    : Word
  i    : Word
  b    : Byte
  word : Word
  div  : DivCode
  deriving DecidableEq, Repr

/-- The reference part of 93_implementation_defined.md K4: its array, its status register (bit 0 WIP, bit 1 WEL),
`busy_reads`, the bytes received since chip-select went low and how many id bytes it has returned since then. -/
structure RefPart where
  id         : JedecId
  size       : Nat
  sectorSize : Nat
  array      : Memory
  sr         : Byte
  busyReads  : Nat
  rx         : List Byte
  sent       : Nat
  deriving DecidableEq, Repr

/-- The machine. `part = none` is the oracle of R5: every window read gives any value. -/
structure State where
  regs     : HostRegs
  desc     : Descriptor
  prot     : List Bool
  pos      : List Frame
  work     : WorkRegs
  timer    : Nat
  progress : Bool
  ctrl     : Word
  clkCfg   : Word
  buf      : Memory
  part     : Option RefPart
  par      : Params
  answers  : List Word
  draws    : Nat
  host     : List HostAction
  hostData : Word
  trace    : List PortAction
  deriving DecidableEq, Repr

/-- Why a step stops with a fault. The block has no traps (60_exceptions.md R160), so there is one fault, and it is the
model's own. -/
inductive Fault where
  /-- The innermost frame is at a step its procedure does not have. Raised by every meaning; no state that a run from
  reset reaches raises it. Safe: the hardware has no such position (log 27). -/
  | noSuchStep
  deriving DecidableEq, Repr

/-- Why a step is refused. -/
inductive Refusal where
  /-- An instruction without a meaning yet. Raised by `exec` alone. Safe. -/
  | notModelled (mnemonic : String)
  /-- The host wrote `CMD` while `STATUS.BUSY` is 1 (U2, R169). Raised by the host's write. Safe: "a model should refuse
  such a run" (log 14). -/
  | commandWhileBusy
  /-- The host wrote `BANK_BASE` while busy (U2, R169). Raised by the host's write. Safe (log 14). -/
  | bankBaseWhileBusy
  /-- The host wrote a protected flag while busy (U2, R22, R169). Raised by the host's write. Safe (log 14). -/
  | protectWhileBusy
  /-- A host access at an offset that is no register of R27. Raised by the host's access. Safe (log 19). -/
  | noHostRegister
  /-- ERASE of a range whose last sector does not exist (U3, R140). Raised by ERASE at step A2. Safe (log 13). -/
  | eraseBeyondSectors
  /-- A data-window access while the chip-select window is closed (U15, R187). Raised by the transactions; no procedure
  makes one. Safe (log 15). -/
  | windowClosed
  deriving DecidableEq, Repr

/-- The outcome of one step of this machine. -/
abbrev Result := Host.Outcome State Fault Refusal

/-- The command interface after reset (R181). -/
def HostRegs.reset : HostRegs where
  cmd := 0
  busy := false
  done := false
  rc := 0
  arg0 := 0
  arg1 := 0
  arg2 := 0
  bankBase := 0
  result0 := 0
  result1 := 0
  protIdx := 0

/-- The descriptor after reset: no part, the slowest clock (R181). -/
def Descriptor.reset : Descriptor where
  id := 0
  size := 0
  nsect := 0
  secsz := 0
  wdiv := 0
  ediv := 0
  rdiv := 0
  dummy := 0
  unknown := false
  calSat := false
  identified := false

/-- The working registers after reset. DESIGN CHOICE 0: R26 gives no value (log 8). Unsafe. -/
def WorkRegs.reset : WorkRegs where
  a0 := 0
  a1 := 0
  a2 := 0
  off := 0
  src := 0
  dst := 0
  cnt := 0
  n := 0
  i := 0
  b := 0
  word := 0
  div := 0

/-- The machine right after reset (R181); `CTRL` holds the default configuration, fast-read and chip-select high
(R182), its divisor field 0 by DESIGN CHOICE (log 9). -/
def State.reset : State where
  regs := HostRegs.reset
  desc := Descriptor.reset
  prot := List.replicate Config.maxSectors false
  pos := []
  work := WorkRegs.reset
  timer := 0
  progress := false
  ctrl := 0x00000005
  clkCfg := 0
  buf := []
  part := none
  par := Config.params
  answers := []
  draws := 0
  host := []
  hostData := 0
  trace := []

end Sys2Proof.Machine
end

