-- ==== Sys2Proof/Machine/Flags.lean ====
section
/-! DEFINITION. The status and flag words: `STATUS` (10_state.md R13), `DIVS` (R21), `DFLAGS` (R33) as the host reads them, and
the status byte of the part (30_encoding.md R63). -/

namespace Sys2Proof.Machine

/-- A flag as a number. -/
def bit (b : Bool) : Word := if b then 1 else 0

/-- `STATUS`: `BUSY` bit 0, `DONE` bit 1, `RC` bits 5:4, every other bit 0 (R13). -/
def statusWord (r : HostRegs) : Word :=
  bit r.busy ||| (bit r.done <<< 1) ||| (r.rc.setWidth 32 <<< 4)

/-- `DIVS`: `WDIV` bits 2:0, `EDIV` bits 6:4, `RDIV` bits 10:8, `DUMMY` bits 23:16, every other bit 0 (R21). -/
def divsWord (d : Descriptor) : Word :=
  d.wdiv.setWidth 32 ||| (d.ediv.setWidth 32 <<< 4) ||| (d.rdiv.setWidth 32 <<< 8) ||| (d.dummy.setWidth 32 <<< 16)

/-- `DFLAGS`: `UNKNOWN` bit 0, `CAL_SAT` bit 1, `IDENTIFIED` bit 2, every other bit 0 (R33). -/
def dflagsWord (d : Descriptor) : Word :=
  bit d.unknown ||| (bit d.calSat <<< 1) ||| (bit d.identified <<< 2)

/-- WIP, "write-in-progress", bit 0 of the status byte (R63). -/
def maskWip : Byte := 0x01

/-- WEL, "write-enable-latched", bit 1 of the status byte (R63). -/
def maskWel : Byte := 0x02

/-- The condition of a status poll: the masked byte has the wanted value (R83 step P2). -/
def pollMet (mask want b : Byte) : Bool := b &&& mask = want

end Sys2Proof.Machine
end

