-- ==== Sys2Proof/Machine/Operands.lean ====
section
/-! DEFINITION. Operand assembly: the control word (40_control_word_and_transaction.md R80, 30_encoding.md R61), address
bytes (R68), the id word (R64), sector addresses (10_state.md R23), the page chunk (43_range_and_buffer.md R146), the
ERASE operands (R140), the part table and the calibration (41_identification.md R101, R105, R106). -/

namespace Sys2Proof.Machine

/-- The value of the `MODE` field (R61). -/
def modeCode : BusMode → Word
  | .normalRead => 0
  | .fastRead => 1
  | .normalWrite => 2
  | .userMode => 3

/-- The chip-select level as a mask: `CS_LOW = 0x00`, `CS_HIGH = 0x04` (R61). -/
def selectMask : ChipSelect → Word
  | .low => 0x00
  | .high => 0x04

/-- `CW(div, cs, mode)` (R80). -/
def controlWord (div : DivCode) (cs : ChipSelect) (mode : BusMode) : Word :=
  (div.setWidth 32 <<< 8) ||| selectMask cs ||| modeCode mode

/-- The `MODE` field of a control word, bits 1:0 (R61). -/
def ctrlMode (w : Word) : BusMode :=
  let m := w.extractLsb' 0 2
  if m = 0 then .normalRead else if m = 1 then .fastRead else if m = 2 then .normalWrite else .userMode

/-- The `CS` field of a control word, bit 2 (R61). -/
def ctrlSelect (w : Word) : ChipSelect := if w.getLsbD 2 then .high else .low

/-- The `DIV` field of a control word, bits 10:8 (R61). -/
def ctrlDiv (w : Word) : DivCode := w.extractLsb' 8 3

/-- The part is selected: the control word has chip-select low (R61). -/
def selected (ctrl : Word) : Bool := ctrlSelect ctrl = .low

/-- The chip-select window is open when the last control word had `CS` low and `MODE` user (10_state.md R29). -/
def windowOpen (ctrl : Word) : Bool := ctrlSelect ctrl = .low ∧ ctrlMode ctrl = .userMode

/-- The controller's default mode: fast-read, chip-select high (R9, R124). -/
def defaultMode (ctrl : Word) : Bool := ctrlSelect ctrl = .high ∧ ctrlMode ctrl = .fastRead

/-- The divisor a code selects, `DIV(code) = 2 + 2*(7-code)` (00_scope.md R4). -/
def divisor (code : DivCode) : Nat := 2 + 2 * (7 - code.toNat)

/-- Address byte `a2 = o[23:16]` (R68). -/
def addrHigh (o : Word) : Byte := o.extractLsb' 16 8

/-- Address byte `a1 = o[15:8]` (R68). -/
def addrMid (o : Word) : Byte := o.extractLsb' 8 8

/-- Address byte `a0 = o[7:0]` (R68). -/
def addrLow (o : Word) : Byte := o.extractLsb' 0 8

/-- The 24-bit offset three address bytes carry, high byte first (20_memory.md R42). -/
def wireOffset (a2 a1 a0 : Byte) : BitVec 24 := a2 ++ a1 ++ a0

/-- Byte `j` of a word, least significant first (20_memory.md R43). -/
def wordByte (w : Word) (j : Nat) : Byte := w.extractLsb' (8 * j) 8

/-- The id of the word read after opcode 0x9F: bits 23:0 (30_encoding.md R64). -/
def idOfWord (w : Word) : JedecId := w.extractLsb' 0 24

/-- The status value of WRSR, `ARG0[7:0]` (R69). -/
def statusValue (w : Word) : Byte := w.extractLsb' 0 8

/-- The offset of sector `i` inside the part, `i * SECSZ` modulo 2^32 (10_state.md R23, R69). -/
def sectorOffset (d : Descriptor) (i : Word) : Word := i * d.secsz

/-- `start(i) = BANK_BASE + i * SECSZ`, derived and not stored (10_state.md R23). -/
def State.sectorStart (s : State) (i : Word) : Word := s.regs.bankBase + sectorOffset s.desc i

/-- The chunk length of a buffered write: the bytes up to the next multiple of 256 of the offset, or all that remain if
fewer (R146). -/
def chunkLength (off cnt : Word) : Word :=
  BitVec.ofNat 32 (min (Config.page - off.toNat % Config.page) cnt.toNat)

/-- The two conditions of the ERASE range check, on signed operands (R140 step A2, R141). -/
def eraseRangeInvalid (first last : Word) : Bool := first.toInt < 0 ∨ first.toInt > last.toInt

/-- The last sector of a range exists: the block has a flag for it, and the identified part has it. Before an IDENT has
found a part `NSECT` is 0 and only the flags bound it (93_implementation_defined.md U3, U8; log 13). -/
def eraseRangeExists (s : State) (last : Word) : Bool :=
  last.toNat < s.prot.length ∧ (s.desc.nsect = 0 ∨ last.toNat < s.desc.nsect.toNat)

/-- `PROT[i]`; a flag that is not there reads 0 (10_state.md R22). -/
def protAt (prot : List Bool) (i : Nat) : Bool := prot.getD i false

/-- The number of `i` with `first <= i <= last` and `PROT[i] = 1` (R140 step A3, R142). -/
def protectedCount (prot : List Bool) (first last : Nat) : Nat :=
  ((prot.drop first).take (last + 1 - first)).count true

/-- `Lookup(id)` (R101): at most one row matches, all 24 bits compared. -/
def tableLookup (par : Params) (id : JedecId) : Option PartRow := par.table.find? fun r => r.id = id

/-- `EffFreq` (R105): the value the parameters list for the word, else the free value (log 7). -/
def effFreq (par : Params) (cfg : Word) : Nat :=
  match par.freqs.find? fun p => p.1 = cfg with
  | some p => p.2
  | none => Config.effFreq cfg

/-- The search of R106, downward from `code` with divisor `div`: the code, and whether code 0 still exceeds. -/
def calSearch (freq ceiling : Nat) : Nat → Nat → Nat × Bool
  | 0, div => (0, ceiling < freq / div)
  | code + 1, div =>
    if ceiling < freq / div then calSearch freq ceiling code (div + 2) else (code + 1, false)

/-- `Cal(F, c)` (R106, R107): the divisor code and the saturation bit. -/
def calibrate (freq ceiling : Nat) : DivCode × Bool :=
  let r := calSearch freq ceiling 7 2
  (BitVec.ofNat 3 r.1, r.2)

end Sys2Proof.Machine
end

