-- ==== Sys2Proof/Machine/Ops.lean ====
section
/-! DEFINITION. The named operations over memory, the sequencer position and the ports. `State.complete` is what this hardware
has of taking an exception and of returning from one (60_exceptions.md R161). -/

namespace Sys2Proof.Machine

/-! ### Byte memory -/

/-- What an unlisted address reads as. DESIGN CHOICE 0xFF: no source gives the buffer's contents (log 11). Unsafe. -/
def Memory.blank : Byte := 0xFF

/-- The byte at an address. -/
def Memory.read : Memory → Nat → Byte
  | [], _ => Memory.blank
  | (k, v) :: m, a => if k = a then v else Memory.read m a

/-- Store a byte, keeping the canonical form: a blank byte is not listed. -/
def Memory.write : Memory → Nat → Byte → Memory
  | [], a, b => if b = Memory.blank then [] else [(a, b)]
  | (k, v) :: m, a, b =>
    if k < a then (k, v) :: Memory.write m a b
    else if k = a then (if b = Memory.blank then m else (a, b) :: m)
    else if b = Memory.blank then (k, v) :: m
    else (a, b) :: (k, v) :: m

/-- Make every byte of `[lo, hi)` blank (the reference part's sector erase, K4). -/
def Memory.clear (m : Memory) (lo hi : Nat) : Memory := m.filter fun c => c.1 < lo || hi ≤ c.1

/-- Every listed address is at least `lo`, they rise strictly, and no listed byte is blank. -/
def Memory.wfFrom : Nat → Memory → Bool
  | _, [] => true
  | lo, (k, v) :: m => lo ≤ k && v ≠ Memory.blank && Memory.wfFrom (k + 1) m

/-- The canonical form. -/
def Memory.wf (m : Memory) : Bool := Memory.wfFrom 0 m

/-! ### Outcomes -/

/-- Go on after an access that may have been refused. -/
def thenNext (r : Result) (f : State → State) : Result :=
  match r with
  | .next s => .next (f s)
  | .fault e => .fault e
  | .refused e => .refused e

/-! ### The sequencer position -/

/-- A frame at step 1 of `op`, with the arguments of its call. -/
def Frame.start (op : Instr) (a0 a1 a2 : Word) : Frame where
  op := op
  step := 1
  a0 := a0
  a1 := a1
  a2 := a2
  k := 0

/-- The innermost frame; while idle, a frame at step 0, which no procedure has. -/
def State.frame (s : State) : Frame :=
  match s.pos with
  | f :: _ => f
  | [] => { Frame.start .ident 0 0 0 with step := 0 }

/-- The step the innermost procedure is at. -/
def State.stepNo (s : State) : Nat := s.frame.step

/-- Replace the innermost frame. -/
def State.setFrame (s : State) (f : Frame) : State :=
  match s.pos with
  | _ :: fs => { s with pos := f :: fs }
  | [] => s

/-- `POS <- n` within the innermost procedure (R8, R25). -/
def State.goto (s : State) (n : Nat) : State := s.setFrame { s.frame with step := n }

/-- Set the loop counter and go to a step. -/
def State.gotoWith (s : State) (k n : Nat) : State := s.setFrame { s.frame with step := n, k := k }

/-- `call P(args)` pushes `(P, 1)` (R25). -/
def State.call (s : State) (op : Instr) (a0 a1 a2 : Word) : State :=
  { s with pos := Frame.start op a0 a1 a2 :: s.pos }

/-- `complete(rc)`, the only way a command ends (R161): `RC`, `DONE`, `BUSY` and `POS` in one step, no port action, no
other state. -/
def State.complete (s : State) (rc : BitVec 2) : State :=
  { s with regs := { s.regs with rc := rc, done := true, busy := false }, pos := [] }

/-- The end of a procedure: a called one pops its frame and advances the caller's step by one (R25); one that runs as
the command itself completes with code 0 (42_primitives.md R126). -/
def State.finish (s : State) : State :=
  match s.pos with
  | _ :: g :: fs => { s with pos := { g with step := g.step + 1 } :: fs }
  | _ => s.complete 0

/-- What happens before a sequencer step: the time of the last delay has passed, so the settle timer is stopped (R171,
log 17), and a `PROGRESS` pulse is over (R16, log 18). -/
def State.elapse (s : State) : State := { s with timer := 0, progress := false }

/-! ### Draws -/

/-- One answer of the part oracle (R5): the oldest one listed, else the free value of this draw (log 3). -/
def State.drawn (s : State) : Word :=
  match s.answers with
  | w :: _ => w
  | [] => Config.partAnswer s.draws

/-- One natural number drawn by the reference part (K4, log 5). -/
def State.drawnCount (s : State) : Nat :=
  match s.answers with
  | w :: _ => w.toNat
  | [] => Config.partBusy s.draws

/-- The state after one draw. -/
def State.afterDraw (s : State) : State := { s with answers := s.answers.tail, draws := s.draws + 1 }

/-! ### The reference part (93_implementation_defined.md K4) -/

/-- `busy_reads <- n`, the part busy; when it is 0 the operation is over: WIP and WEL are clear (log 5). -/
def RefPart.busyFor (p : RefPart) (n : Nat) : RefPart :=
  if n = 0 then { p with busyReads := 0, sr := p.sr &&& 0xFC }
  else { p with busyReads := n, sr := p.sr ||| maskWip }

/-- Where byte `k` of a page program lands: the low 8 bits of the address count modulo 256. -/
def pageAddress (a : BitVec 24) (k : Nat) : Nat := a.toNat / 256 * 256 + (a.toNat + k) % 256

/-- The array after a page program of `data` at `a`: each byte is anded in; the array ends at `size`. -/
def programBytes (size : Nat) (a : BitVec 24) : Nat → List Byte → Memory → Memory
  | _, [], m => m
  | k, d :: ds, m =>
    let loc := pageAddress a k
    programBytes size a (k + 1) ds
      (if loc < size then Memory.write m loc (Memory.read m loc &&& d) else m)

/-- Chip-select goes low: a new command starts. -/
def RefPart.select (p : RefPart) : RefPart := { p with rx := [], sent := 0 }

/-- Chip-select goes high: the command received takes effect; `n` is the drawn number of busy reads. A write command
received with WEL clear is ignored. -/
def RefPart.deselect (p : RefPart) (n : Nat) : RefPart :=
  let q := { p with rx := [], sent := 0 }
  match p.rx with
  | [] => q
  | op :: rest =>
    if op = 0x06 then { q with sr := q.sr ||| maskWel }
    else if p.sr &&& maskWel = 0 then q
    else if op = 0x01 then
      match rest with
      | [v] => { q with sr := (v &&& 0xFC) ||| (q.sr &&& 0x03) }.busyFor n
      | _ => q
    else if op = 0x02 then
      match rest with
      | a2 :: a1 :: a0 :: data =>
        { q with array := programBytes q.size (wireOffset a2 a1 a0) 0 data q.array }.busyFor n
      | _ => q
    else if op = 0xD8 then
      match rest with
      | [a2, a1, a0] =>
        let base := (wireOffset a2 a1 a0).toNat / q.sectorSize * q.sectorSize
        { q with array := Memory.clear q.array base (base + q.sectorSize) }.busyFor n
      | _ => q
    else q

/-- The command received will make the part busy, so the number of busy reads is drawn. -/
def RefPart.startsBusy (p : RefPart) : Bool :=
  match p.rx with
  | op :: rest =>
    p.sr &&& maskWel ≠ 0 ∧
      ((op = 0x01 ∧ rest.length = 1) ∨ (op = 0x02 ∧ 3 ≤ rest.length) ∨ (op = 0xD8 ∧ rest.length = 3))
  | [] => false

/-- A byte is shifted in from the data window. -/
def RefPart.receive (p : RefPart) (b : Byte) : RefPart := { p with rx := p.rx ++ [b] }

/-- The byte the part shifts out next, where K4 gives it: an id byte after 0x9F, the status register after 0x05. -/
def RefPart.out (p : RefPart) : Option Byte :=
  match p.rx with
  | op :: _ =>
    if op = 0x9F then (if p.sent < 3 then some (p.id.extractLsb' (8 * p.sent) 8) else none)
    else if op = 0x05 then some p.sr
    else none
  | [] => none

/-- The part after it has shifted a byte out: a status read counts one busy read down. -/
def RefPart.afterOut (p : RefPart) : RefPart :=
  let q := { p with sent := p.sent + 1 }
  match p.rx with
  | op :: _ => if op = 0x05 ∧ p.busyReads ≠ 0 then q.busyFor (p.busyReads - 1) else q
  | [] => q

/-- The array bytes a default-mode read of `n` bytes at offset `o` returns, where they are all inside the part. -/
def RefPart.window (p : RefPart) (o n : Nat) : Option (List Byte) :=
  if o + n ≤ p.size then some ((List.range n).map fun j => Memory.read p.array (o + j)) else none

/-! ### The part as the ports see it -/

/-- Shift one byte in from the part (R47): what the reference part gives, else any value. -/
def State.shiftedIn (s : State) : Byte :=
  match s.part.bind RefPart.out with
  | some b => b
  | none => s.drawn.extractLsb' 0 8

/-- The part after `n` bytes have been shifted out of it. After opcode 0x05 each byte counts as one status read (DESIGN
CHOICE; log 5). -/
def RefPart.shiftOut (p : RefPart) : Nat → RefPart
  | 0 => p
  | n + 1 => p.afterOut.shiftOut n

/-- The state after one byte has been shifted in. -/
def State.afterShiftIn (s : State) : State :=
  match s.part with
  | none => s.afterDraw
  | some p =>
    match p.out with
    | some _ => { s with part := some p.afterOut }
    | none => { s.afterDraw with part := some p.afterOut }

/-- The word of a 32-bit data-window read (20_memory.md R41): one answer of the oracle; of the reference part the next
four bytes, the first in bits 7:0, each its status register after opcode 0x05 (DESIGN CHOICE; log 5). -/
def State.shiftedInWord (s : State) : Word :=
  match s.part with
  | none => s.drawn
  | some _ =>
    let s1 := s.afterShiftIn
    let s2 := s1.afterShiftIn
    let s3 := s2.afterShiftIn
    s3.shiftedIn ++ s2.shiftedIn ++ s1.shiftedIn ++ s.shiftedIn

/-- The state after a 32-bit data-window read: the reference part has shifted four bytes out (20_memory.md R47). K4 gives
no 32-bit read after opcode 0x05; each of the four bytes counts as one status read, so `busy_reads` falls by up to four
(DESIGN CHOICE; log 5). -/
def State.afterShiftInWord (s : State) : State :=
  match s.part with
  | none => s.afterDraw
  | some _ => s.afterShiftIn.afterShiftIn.afterShiftIn.afterShiftIn

/-- The bytes a flash-window read of `n` bytes at `a` returns, where the specification fixes them: of the reference
part in default mode, aligned (K4). Elsewhere the value is any value (U7, U15; log 16). -/
def State.windowBytes (s : State) (a : Word) (n : Nat) : Option (List Byte) :=
  match s.part with
  | none => none
  | some p =>
    if defaultMode s.ctrl ∧ a.toNat % n = 0 then p.window (a - s.regs.bankBase).toNat n else none

/-- Chip-select as the reference part sees it at a control write. Going low starts a new command and going high ends the
command received (K4). A write that leaves it low, which a command makes when the reset input has hit an open window,
starts none: the part goes on with the command it was receiving (DESIGN CHOICE, after K4 and R188; log 5). -/
def State.partSelect (s : State) (w : Word) : State :=
  match s.part with
  | none => s
  | some p =>
    if selected w then (if selected s.ctrl then s else { s with part := some p.select })
    else if selected s.ctrl then
      if p.startsBusy then { s.afterDraw with part := some (p.deselect s.drawnCount) }
      else { s with part := some (p.deselect 0) }
    else s

/-! ### Port actions (00_scope.md R8) -/

/-- Record a port action (R6). -/
def State.emit (s : State) (e : PortAction) : State := { s with trace := s.trace ++ [e] }

/-- `CtrlWrite(w)`: the whole register is written (R80). -/
def State.ctrlWrite (s : State) (w : Word) : State := { (s.partSelect w).emit (.ctrlWrite w) with ctrl := w }

/-- `Delay(n)`: a trace action that loads the settle timer and changes nothing else (R171, R192). -/
def State.delay (s : State) (n : Nat) : State := { s.emit (.delay n) with timer := n }

/-- `DataWrite8(b)` at `DATA_ADDR = BANK_BASE`; refused while the window is closed (R187, U15). -/
def State.dataWrite8 (s : State) (b : Byte) : Result :=
  if windowOpen s.ctrl then
    .next { s.emit (.dataWrite8 s.regs.bankBase b) with part := s.part.map (RefPart.receive · b) }
  else .refused .windowClosed

/-- `w_b <- DataRead8()`. -/
def State.dataRead8 (s : State) : Result :=
  if windowOpen s.ctrl then
    .next { s.afterShiftIn.emit (.dataRead8 s.regs.bankBase s.shiftedIn) with work.b := s.shiftedIn }
  else .refused .windowClosed

/-- `w_word <- DataRead32()`. -/
def State.dataRead32 (s : State) : Result :=
  if windowOpen s.ctrl then
    .next { s.afterShiftInWord.emit (.dataRead32 s.regs.bankBase s.shiftedInWord) with work.word := s.shiftedInWord }
  else .refused .windowClosed

/-- The word a 32-bit flash-window read returns (20_memory.md R43: little-endian). -/
def State.windowWord (s : State) (a : Word) : Word :=
  match s.windowBytes a 4 with
  | some [b0, b1, b2, b3] => b3 ++ b2 ++ b1 ++ b0
  | _ => s.drawn

/-- The byte an 8-bit flash-window read returns. -/
def State.windowByte (s : State) (a : Word) : Byte :=
  match s.windowBytes a 1 with
  | some [b] => b
  | _ => s.drawn.extractLsb' 0 8

/-- A read of `n` bytes of the mapped range, as the reference part sees it. In user mode with chip-select low the range is
the data window (20_memory.md R40) and the read shifts `n` bytes out of the part (R47); elsewhere it leaves the part as
it is (DESIGN CHOICE; log 16). -/
def State.clockPart (s : State) (n : Nat) : State :=
  if windowOpen s.ctrl then { s with part := s.part.map fun p => p.shiftOut n } else s

/-- The state after a read of `n` bytes by RBUF. Where the specification fixes the value nothing changes; elsewhere the
value is a draw, also where the read is one of the data window (U15; log 16). -/
def State.afterWindow (s : State) (a : Word) (n : Nat) : State :=
  match s.windowBytes a n with
  | some _ => s
  | none => (s.clockPart n).afterDraw

/-- `w_word <- WinRead32(a)`. -/
def State.winRead32 (s : State) (a : Word) : State :=
  { (s.afterWindow a 4).emit (.winRead32 a (s.windowWord a)) with work.word := s.windowWord a }

/-- `w_b <- WinRead8(a)`. -/
def State.winRead8 (s : State) (a : Word) : State :=
  { (s.afterWindow a 1).emit (.winRead8 a (s.windowByte a)) with work.b := s.windowByte a }

/-- `cfg <- ClkCfgRead()`; the word read is kept in `w_word`, the "last word read" (R26, log 22). -/
def State.clkCfgRead (s : State) : State :=
  { s.emit (.clkCfgRead s.clkCfg) with work.word := s.clkCfg }

/-- `w_b <- BufRead8(a)`. -/
def State.bufRead8 (s : State) (a : Word) : State :=
  let b := Memory.read s.buf a.toNat
  { s.emit (.bufRead8 a b) with work.b := b }

/-- `BufWrite8(a, b)`. -/
def State.bufWrite8 (s : State) (a : Word) (b : Byte) : State :=
  { s.emit (.bufWrite8 a b) with buf := Memory.write s.buf a.toNat b }

/-! ### The bus accesses behind the abbreviations (20_memory.md R40, R45) -/

/-- The address spaces the sequencer reaches (R40). -/
inductive BusSpace where
  | ctl
  | win
  | scu
  | buf
  deriving DecidableEq, Repr

/-- One bus access: the space, the address, the width in bytes, whether it writes, the value. -/
structure BusAccess where
  space : BusSpace
  addr  : Word
  bytes : Nat
  write : Bool
  value : Word
  deriving DecidableEq, Repr

/-- The access each abbreviation stands for (R8); a delay is none. -/
def PortAction.access : PortAction → Option BusAccess
  | .ctrlWrite w => some ⟨.ctl, Config.ctrlAddr, 4, true, w⟩
  | .delay _ => none
  | .dataWrite8 a b => some ⟨.win, a, 1, true, b.setWidth 32⟩
  | .dataRead8 a b => some ⟨.win, a, 1, false, b.setWidth 32⟩
  | .dataRead32 a w => some ⟨.win, a, 4, false, w⟩
  | .winRead32 a w => some ⟨.win, a, 4, false, w⟩
  | .winRead8 a b => some ⟨.win, a, 1, false, b.setWidth 32⟩
  | .clkCfgRead w => some ⟨.scu, Config.clkCfgAddr, 4, false, w⟩
  | .bufRead8 a b => some ⟨.buf, a, 1, false, b.setWidth 32⟩
  | .bufWrite8 a b => some ⟨.buf, a, 1, true, b.setWidth 32⟩

end Sys2Proof.Machine
end

