-- ==== Sys2Proof/Machine/Identify.lean ====
section
/-! DEFINITION. Identification and timing calibration: IDENT (41_identification.md R101 to R111). -/

namespace Sys2Proof.Machine

/-- The id IDENT looks up: `ID[23:0]` (R100, R111 step I2). -/
def State.idRead (s : State) : JedecId := idOfWord s.desc.id

/-- `row <- Lookup(id)` (R111 step I3); the row is derived from `ID` and the table, not stored. -/
def State.row (s : State) : Option PartRow := tableLookup s.par s.idRead

/-- The descriptor of an unknown part (R103). -/
def unknownPart (d : Descriptor) : Descriptor :=
  { d with unknown := true, size := 0, nsect := 0, secsz := 0, wdiv := 0, ediv := 0, rdiv := 0, dummy := 0,
           calSat := false }

/-- The geometry of a known part (R104). -/
def copyRow (d : Descriptor) (r : PartRow) : Descriptor :=
  { d with size := r.capacity, nsect := r.sectors, secsz := r.eraseSize, dummy := r.dummy, unknown := false }

/-- The three calibrations (R108). With `CAL_SAT` set the clock exceeds the part's ceiling (R107); the machine runs on, and
so does the model, with the part taken to behave as ever (DESIGN CHOICE; log 32). -/
def calibrated (d : Descriptor) (freq : Nat) (r : PartRow) : Descriptor :=
  let w := calibrate freq r.writeCeiling
  let e := calibrate freq r.eraseCeiling
  let rd := calibrate freq r.readCeiling
  { d with wdiv := w.1, ediv := e.1, rdiv := rd.1, calSat := w.2 || e.2 || rd.2 }

/-- `IDENT` (R111): the step numbers are those of I1 to I11. An unknown id skips I6 to I9 (R103); the clock word read at
I7 is in `w_word` at I8 (log 22). -/
def execIdent (s : State) : Result :=
  match s.stepNo with
  | 1 => .next (s.call .rdid 0 0 0)
  | 2 => .next ({ s with desc.id := (idOfWord s.work.word).setWidth 32 }.goto 3)
  | 3 => .next (s.goto 4)
  | 4 => .next ({ s with prot := List.replicate s.prot.length false }.goto 5)
  | 5 =>
    match s.row with
    | none => .next ({ s with desc := unknownPart s.desc }.goto 10)
    | some _ => .next (s.goto 6)
  | 6 =>
    match s.row with
    | none => .next (s.goto 10)
    | some r => .next ({ s with desc := copyRow s.desc r }.goto 7)
  | 7 => .next (s.clkCfgRead.goto 8)
  | 8 =>
    match s.row with
    | none => .next (s.goto 10)
    | some r => .next ({ s with desc := calibrated s.desc (effFreq s.par s.work.word) r }.goto 9)
  | 9 => .next (s.call .wrsr 0 0 0)
  | 10 => .next (s.call .reset 0 0 0)
  | 11 => .next ({ s with desc.identified := true }.complete 0)
  | _ => .fault .noSuchStep

end Sys2Proof.Machine
end

