-- ==== Sys2Proof/Machine/Primitives.lean ====
section
/-! DEFINITION. The primitives WREN, WRSR, PP, SE and RESET (42_primitives.md R120 to R126). As a host command each ends with
`complete(0)`, called by another procedure it returns (`State.finish`, R126). -/

namespace Sys2Proof.Machine

/-- `call SPOLL(div, mask, want)` (R85). -/
def callPoll (s : State) (div : DivCode) (mask want : Byte) : State :=
  s.call .spoll (mask.setWidth 32) (want.setWidth 32) (div.setWidth 32)

/-- `call SPOLL(div, 0x01, 0x00)`: wait until WIP is clear. -/
def callPollWip (s : State) (div : DivCode) : State := callPoll s div maskWip 0x00

/-- `call WREN`. -/
def callWren (s : State) : State := s.call .wren 0 0 0

/-- `WREN` (R120): 1 = E1, 2 = E2, 3 = the end. Both transactions at `WDIV` (R125). -/
def execWren (s : State) : Result :=
  match s.stepNo with
  | 1 => .next (s.call .spiWren 0 0 0)
  | 2 => .next (callPoll s s.desc.wdiv maskWel maskWel)
  | 3 => .next s.finish
  | _ => .fault .noSuchStep

/-- `WRSR(v)` (R121), `v` in the first argument: 1 = S1, 2 = S2, 3 = S3, 4 = the end. -/
def execWrsr (s : State) : Result :=
  match s.stepNo with
  | 1 => .next (callWren s)
  | 2 => .next (s.call (.spiWrsr (statusValue s.frame.a0)) 0 0 0)
  | 3 => .next (callPollWip s s.desc.wdiv)
  | 4 => .next s.finish
  | _ => .fault .noSuchStep

/-- `PP(off, src, n)` (R122): 1 = G1, 2 = G2 to G11, 3 = G12, 4 = the end. -/
def execPp (s : State) : Result :=
  match s.stepNo with
  | 1 => .next (callWren s)
  | 2 =>
    let o := s.frame.a0
    .next (s.call (.spiPp (addrHigh o) (addrMid o) (addrLow o)) s.frame.a1 s.frame.a2 0)
  | 3 => .next (callPollWip s s.desc.wdiv)
  | 4 => .next s.finish
  | _ => .fault .noSuchStep

/-- `SE(off)` (R123): 1 = X1, 2 = X2, 3 = X3, 4 = the end. The erase opcode and its poll run at `EDIV` (R125). -/
def execSe (s : State) : Result :=
  match s.stepNo with
  | 1 => .next (callWren s)
  | 2 =>
    let o := s.frame.a0
    .next (s.call (.spiSe (addrHigh o) (addrMid o) (addrLow o)) 0 0 0)
  | 3 => .next (callPollWip s s.desc.ediv)
  | 4 => .next s.finish
  | _ => .fault .noSuchStep

/-- `RESET` (R124): 1 = Z1, 2 = Z2, 3 = the end. -/
def execReset (s : State) : Result :=
  match s.stepNo with
  | 1 => .next ((s.ctrlWrite (controlWord s.desc.rdiv .high .fastRead)).goto 2)
  | 2 => .next ((s.delay Config.tCtrl).goto 3)
  | 3 => .next s.finish
  | _ => .fault .noSuchStep

end Sys2Proof.Machine
end

