-- ==== Sys2Proof/Machine/RangeBuffer.lean ====
section
/-! DEFINITION. The composed commands ERASE, WBUF and RBUF (43_range_and_buffer.md R140 to R147). -/

namespace Sys2Proof.Machine

/-- `ERASE first, last` (R140), the operands in `w_a0` and `w_a1`: 1 = A1, 2 = A2, 3 = A3, 4 = A4, 5 = A5 up to its call,
6 = A5 after its call, 7 = A6, 8 = A7, 9 = A8, 10 = A9. -/
def execErase (s : State) : Result :=
  match s.stepNo with
  | 1 => .next ({ s with regs.result0 := 0, regs.result1 := 0 }.goto 2)
  | 2 =>
    if eraseRangeInvalid s.work.a0 s.work.a1 then .next (s.complete 1)
    else if eraseRangeExists s s.work.a1 then .next (s.goto 3)
    else .refused .eraseBeyondSectors
  | 3 =>
    .next ({ s with
      regs.result0 := BitVec.ofNat 32 (protectedCount s.prot s.work.a0.toNat s.work.a1.toNat) }.goto 4)
  | 4 => .next ({ s with work.i := s.work.a0 }.goto 5)
  | 5 =>
    if protAt s.prot s.work.i.toNat then .next (s.goto 7)
    else .next (s.call .se (sectorOffset s.desc s.work.i) 0 0)
  | 6 => .next ({ s with regs.result1 := s.regs.result1 + 1, progress := true }.goto 7)
  | 7 => if s.work.i = s.work.a1 then .next (s.goto 9) else .next (s.goto 8)
  | 8 => .next ({ s with work.i := s.work.i + 1 }.goto 5)
  | 9 => .next (s.call .reset 0 0 0)
  | 10 => .next (s.complete 0)
  | _ => .fault .noSuchStep

/-- `WBUF src, dest, count` (R145), the operands in `w_a0`, `w_a1`, `w_a2`: the step numbers are those of B1 to B7. -/
def execWbuf (s : State) : Result :=
  match s.stepNo with
  | 1 =>
    .next ({ s with
      work := { s.work with src := s.work.a0, off := s.work.a1 - s.regs.bankBase, cnt := s.work.a2 } }.goto 2)
  | 2 => if s.work.cnt = 0 then .next (s.goto 6) else .next (s.goto 3)
  | 3 => .next ({ s with work.n := chunkLength s.work.off s.work.cnt }.goto 4)
  | 4 => .next (s.call .pp s.work.off s.work.src s.work.n)
  | 5 =>
    .next ({ s with
      work := { s.work with
        src := s.work.src + s.work.n
        off := s.work.off + s.work.n
        cnt := s.work.cnt - s.work.n } }.goto 2)
  | 6 => .next (s.call .reset 0 0 0)
  | 7 => .next (s.complete 0)
  | _ => .fault .noSuchStep

/-- The buffer address RBUF stores to in the step it is at, if that step stores: byte `j` of a word at `w_dst + j`
(step C3), the single byte at `w_dst` (step C6). -/
def rbufStoreAddr (s : State) : Option Word :=
  match s.stepNo with
  | 4 => some s.work.dst
  | 5 => some (s.work.dst + 1)
  | 6 => some (s.work.dst + 2)
  | 7 => some (s.work.dst + 3)
  | 11 => some s.work.dst
  | _ => none

/-- `RBUF dst, src, count` (R147), the operands in `w_a0`, `w_a1`, `w_a2`: 1 = C1, 2 = C2, 3 = the word load of C3, 4 to
7 = its four byte stores, 8 = C4, 9 = C5, 10 = the load of C6, 11 = its store, 12 = C7, 13 = C8. -/
def execRbuf (s : State) : Result :=
  match s.stepNo with
  | 1 =>
    .next ({ s with
      work := { s.work with dst := s.work.a0, src := s.work.a1, cnt := s.work.a2 } }.goto 2)
  | 2 => if s.work.cnt.toNat < 4 then .next (s.goto 9) else .next (s.goto 3)
  | 3 => .next ((s.winRead32 s.work.src).goto 4)
  | 4 => .next ((s.bufWrite8 s.work.dst (wordByte s.work.word 0)).goto 5)
  | 5 => .next ((s.bufWrite8 (s.work.dst + 1) (wordByte s.work.word 1)).goto 6)
  | 6 => .next ((s.bufWrite8 (s.work.dst + 2) (wordByte s.work.word 2)).goto 7)
  | 7 => .next ((s.bufWrite8 (s.work.dst + 3) (wordByte s.work.word 3)).goto 8)
  | 8 =>
    .next ({ s with
      work := { s.work with src := s.work.src + 4, dst := s.work.dst + 4, cnt := s.work.cnt - 4 } }.goto 2)
  | 9 => if s.work.cnt = 0 then .next (s.goto 13) else .next (s.goto 10)
  | 10 => .next ((s.winRead8 s.work.src).goto 11)
  | 11 => .next ((s.bufWrite8 s.work.dst s.work.b).goto 12)
  | 12 =>
    .next ({ s with
      work := { s.work with src := s.work.src + 1, dst := s.work.dst + 1, cnt := s.work.cnt - 1 } }.goto 9)
  | 13 => .next (s.complete 0)
  | _ => .fault .noSuchStep

end Sys2Proof.Machine
end

