-- ==== Sys2Proof/Machine/Transactions.lean ====
section
/-! DEFINITION. The transaction pattern `Txn` (40_control_word_and_transaction.md R81 to R84) and the six operations that are one
transaction each (R85, R100, R120 to R123). -/

namespace Sys2Proof.Machine

/-- The tail of a transaction (R81): nothing, a status poll (R83), the id read (R84), or the data bytes of a page
program, each fetched from the buffer immediately before it is sent (R81, R122 steps G7 to G10). -/
inductive Tail where
  | none
  | poll (mask want : Byte)
  | read24
  | data (src n : Word)
  deriving DecidableEq, Repr

/-- Step T4. A poll reads and tests in one step and stays there until the masked byte has the wanted value (R83). The
data tail is at step 5 where it tests `k = n` (G8) and fetches (G9). -/
def tailStep (tail : Tail) (s : State) : Result :=
  match tail with
  | .none => .next (s.goto 6)
  | .poll mask want =>
    thenNext s.dataRead8 fun s' => if pollMet mask want s'.work.b then s'.goto 6 else s'
  | .read24 => thenNext s.dataRead32 fun s' => s'.goto 6
  | .data src n =>
    if s.frame.k = n.toNat then .next (s.goto 6)
    else .next ((s.bufRead8 (src + BitVec.ofNat 32 s.frame.k)).goto 9)

/-- One step of `Txn(div, out, tail)` (R81). Step numbers: 1 = T1, 2 = T2, 3 = T3a, 4 = T3b, 5 = T4, 6 = T5, 7 = T6,
8 = the end; 9 and 10 are the `DataWrite8` and the `Delay` of step G9 (R122), which only a data tail has. The loop
counter is `j` at T3 and `k` at G8 to G10. Step T5 keeps the divisor code of T1 (R81, D6), held in `w_div`. -/
def txnStep (div : DivCode) (out : List Byte) (tail : Tail) (s : State) : Result :=
  match s.stepNo with
  | 1 => .next (({ s with work.div := div }.ctrlWrite (controlWord div .low .userMode)).goto 2)
  | 2 => .next ((s.delay Config.tCtrl).gotoWith 0 3)
  | 3 => thenNext (s.dataWrite8 (out.getD s.frame.k 0)) fun s' => s'.goto 4
  | 4 =>
    if s.frame.k + 1 < out.length then .next ((s.delay Config.tByte).gotoWith (s.frame.k + 1) 3)
    else .next ((s.delay Config.tByte).gotoWith 0 5)
  | 5 => tailStep tail s
  | 6 => .next ((s.ctrlWrite (controlWord s.work.div .high .userMode)).goto 7)
  | 7 => .next ((s.delay Config.tCtrl).goto 8)
  | 8 => .next s.finish
  | 9 =>
    match tail with
    | .data _ _ => thenNext (s.dataWrite8 s.work.b) fun s' => s'.goto 10
    | _ => .fault .noSuchStep
  | 10 =>
    match tail with
    | .data _ _ => .next ((s.delay Config.tByte).gotoWith (s.frame.k + 1) 5)
    | _ => .fault .noSuchStep
  | _ => .fault .noSuchStep

/-- `RDID`: `Txn(ID_DIV, [0x9F], READ24)` (R100). -/
def execRdid (s : State) : Result := txnStep Config.idDiv [0x9F] .read24 s

/-- `SPI_WREN`: `Txn(WDIV, [0x06], NONE)` (R120 step E1). -/
def execSpiWren (s : State) : Result := txnStep s.desc.wdiv [0x06] .none s

/-- `SPOLL(div, mask, want)`: `Txn(div, [0x05], POLL(mask, want))` (R85). The frame's arguments are mask, want and the
divisor code, in the order of R66. -/
def execSpoll (s : State) : Result :=
  txnStep (s.frame.a2.setWidth 3) [0x05] (.poll (s.frame.a0.setWidth 8) (s.frame.a1.setWidth 8)) s

/-- `SPI_WRSR`: `Txn(WDIV, [0x01, v], NONE)` (R121 step S2). -/
def execSpiWrsr (v : Byte) (s : State) : Result := txnStep s.desc.wdiv [0x01, v] .none s

/-- `SPI_PP`: steps G2 to G11, `Txn(WDIV, [0x02, a2, a1, a0] ++ data, NONE)` with each data byte fetched from the buffer
(R122). The frame's arguments are the buffer address and the byte count. -/
def execSpiPp (a2 a1 a0 : Byte) (s : State) : Result :=
  txnStep s.desc.wdiv [0x02, a2, a1, a0] (.data s.frame.a0 s.frame.a1) s

/-- `SPI_SE`: `Txn(EDIV, [0xD8, a2, a1, a0], NONE)` (R123 step X2). -/
def execSpiSe (a2 a1 a0 : Byte) (s : State) : Result := txnStep s.desc.ediv [0xD8, a2, a1, a0] .none s

end Sys2Proof.Machine
end

