-- ==== Sys2Proof/Machine/Dispatch.lean ====
section
/-! DEFINITION. One arm per operation: the step the sequencer makes while that operation is the innermost procedure. -/

namespace Sys2Proof.Machine

def exec (i : Instr) (s : State) : Host.Outcome State Fault Refusal :=
  match i with
  | .ident => Sys2Proof.Machine.execIdent s
  | .wren => Sys2Proof.Machine.execWren s
  | .wrsr => Sys2Proof.Machine.execWrsr s
  | .pp => Sys2Proof.Machine.execPp s
  | .se => Sys2Proof.Machine.execSe s
  | .reset => Sys2Proof.Machine.execReset s
  | .erase => Sys2Proof.Machine.execErase s
  | .wbuf => Sys2Proof.Machine.execWbuf s
  | .rbuf => Sys2Proof.Machine.execRbuf s
  | .rdid => Sys2Proof.Machine.execRdid s
  | .spiWren => Sys2Proof.Machine.execSpiWren s
  | .spoll => Sys2Proof.Machine.execSpoll s
  | .spiWrsr v => Sys2Proof.Machine.execSpiWrsr v s
  | .spiPp a2 a1 a0 => Sys2Proof.Machine.execSpiPp a2 a1 a0 s
  | .spiSe a2 a1 a0 => Sys2Proof.Machine.execSpiSe a2 a1 a0 s

end Sys2Proof.Machine
end

