-- ==== Sys2Proof/WellFormed.lean ====
section
/-! DEFINITION. Well-formedness of what the block is given: byte sequences sent as one transaction, host accesses, and
the part table. An `Instr` needs no check of its own: every operand field has exactly the width its encoding gives it
(8 bits for a status value or an address byte), so no ill-formed `Instr` can be written. -/

namespace Sys2Proof

/-- A byte list is a whole transaction of the format its first byte decides (30_encoding.md R62, R67, R72). -/
def transactionWf : List Byte → Bool
  | [] => false
  | op :: rest =>
    if op = 0x9F ∨ op = 0x06 ∨ op = 0x05 then rest.length = 0
    else if op = 0x01 then rest.length = 1
    else if op = 0xD8 then rest.length = 3
    else if op = 0x02 then 3 ≤ rest.length ∧ rest.length ≤ 3 + (2 ^ 32 - 1)
    else false

/-- The offset of a host access names a register: aligned, and inside the file (10_state.md R27). -/
def offsetWf (off : Word) : Bool := off.toNat % 4 = 0 ∧ off.toNat < 0x40

/-- A host action names a register where it names an offset. -/
def HostAction.wf : HostAction → Bool
  | .write off _ => offsetWf off
  | .read off => offsetWf off
  | .wait | .pass | .hwReset | .store _ _ | .clock _ => true

/-- A row's sectors fit its capacity (10_state.md R24, required of every row by R102). -/
def PartRow.fits (r : PartRow) : Bool := r.sectors.toNat * r.eraseSize.toNat ≤ r.capacity.toNat

/-- A row holds the five cells R102 gives for the W25X16. -/
def PartRow.isW25x16 (r : PartRow) : Bool :=
  r.id = 0x1530EF ∧ r.capacity = 0x200000 ∧ r.sectors = 32 ∧ r.eraseSize = 0x10000

/-- No two rows have one id (10_state.md R32: "Ids are unique"). -/
def tableUnique : List PartRow → Bool
  | [] => true
  | r :: rs => (rs.all fun q => q.id ≠ r.id) && tableUnique rs

/-- The constraints on `PART_TABLE` (00_scope.md R4, 10_state.md R32, 41_identification.md R102). -/
def tableWf (t : List PartRow) : Bool := t.all PartRow.fits && t.any PartRow.isW25x16 && tableUnique t

/-- The constraint on `MAX_SECTORS` (R4): at least the largest sector count of the table. -/
def sectorsWf (t : List PartRow) (maxSectors : Nat) : Bool := t.all fun r => r.sectors.toNat ≤ maxSectors

end Sys2Proof
end

