-- ==== Sys2Proof/Decode.lean ====
section
/-! DEFINITION. The decoder and, after it, the encoder (30_encoding.md R62, R65 to R67, R70). Decoding is total: a word or a
byte list that is no operation gives `none`. -/

namespace Sys2Proof

/-- The command code of a word written to `CMD`: bits 7:0; bits 31:8 are ignored (R65). -/
def commandCode (w : Word) : Byte := w.extractLsb' 0 8

/-- The nine command codes (R66). Codes 0x00 and 0x0A to 0xFF are illegal (R70). -/
def decodeCommand (w : Word) : Option Instr :=
  let op := commandCode w
  if op = 0x01 then some .ident
  else if op = 0x02 then some .wren
  else if op = 0x03 then some .wrsr
  else if op = 0x04 then some .pp
  else if op = 0x05 then some .se
  else if op = 0x06 then some .reset
  else if op = 0x07 then some .erase
  else if op = 0x08 then some .wbuf
  else if op = 0x09 then some .rbuf
  else none

/-- The six SPI opcodes (R67), each with the operand bytes its format fixes (R62). What follows them, the data bytes of
a page program, is returned as the rest. -/
def decodeWire : List Byte → Option (Instr × List Byte)
  | [] => none
  | op :: rest =>
    if op = 0x9F then some (.rdid, rest)
    else if op = 0x06 then some (.spiWren, rest)
    else if op = 0x05 then some (.spoll, rest)
    else if op = 0x01 then
      match rest with
      | v :: more => some (.spiWrsr v, more)
      | [] => none
    else if op = 0x02 then
      match rest with
      | a2 :: a1 :: a0 :: more => some (.spiPp a2 a1 a0, more)
      | _ => none
    else if op = 0xD8 then
      match rest with
      | a2 :: a1 :: a0 :: more => some (.spiSe a2 a1 a0, more)
      | _ => none
    else none

/-- The decoder on the bytes of an operation, the first at the lowest address. A command word is four bytes, the least
significant first (bit 0 of the word is bit 0 of the first byte). -/
def decode (sp : Space) (bytes : List Byte) : Option (Instr × List Byte) :=
  match sp with
  | .wire => decodeWire bytes
  | .command =>
    match bytes with
    | b0 :: b1 :: b2 :: b3 :: rest => (decodeCommand (b3 ++ b2 ++ b1 ++ b0)).map fun i => (i, rest)
    | _ => none

/-- The bytes of an opcode-table word of `nbits` bits, low byte first, with operand bytes of zeros up to the longest
operation (four bytes). -/
def tableBytes (nbits w : Nat) : List Byte :=
  [BitVec.ofNat 8 (w % 2 ^ nbits), BitVec.ofNat 8 (w % 2 ^ nbits / 0x100),
   BitVec.ofNat 8 (w % 2 ^ nbits / 0x10000), BitVec.ofNat 8 (w % 2 ^ nbits / 0x1000000)]

/-- Which kind of encoded word an opcode-table row of `nbits` bits is: the table gives the command words 32 bits and
the SPI opcodes 8 (log 25). -/
def tableSpace (nbits : Nat) : Space := if nbits = 32 then .command else .wire

/-- The instruction the decoder reads from an opcode-table word. -/
def decodeTableWord (nbits w : Nat) : Option Instr :=
  (decode (tableSpace nbits) (tableBytes nbits w)).map Prod.fst

/-- The command code of a host command, and the SPI opcode of a transaction (R66, R67). -/
def opcodeOf : Instr → Byte
  | .ident => 0x01
  | .wren => 0x02
  | .wrsr => 0x03
  | .pp => 0x04
  | .se => 0x05
  | .reset => 0x06
  | .erase => 0x07
  | .wbuf => 0x08
  | .rbuf => 0x09
  | .rdid => 0x9F
  | .spiWren => 0x06
  | .spoll => 0x05
  | .spiWrsr _ => 0x01
  | .spiPp _ _ _ => 0x02
  | .spiSe _ _ _ => 0xD8

/-- The bytes after the opcode (R62); a command word's bits 31:8, which are ignored, are written as 0. -/
def operandBytes : Instr → List Byte
  | .ident | .wren | .wrsr | .pp | .se | .reset | .erase | .wbuf | .rbuf => [0x00, 0x00, 0x00]
  | .rdid | .spiWren | .spoll => []
  | .spiWrsr v => [v]
  | .spiPp a2 a1 a0 | .spiSe a2 a1 a0 => [a2, a1, a0]

/-- The encoder: the bytes of an operation. -/
def encode (i : Instr) : List Byte := opcodeOf i :: operandBytes i

/-- The word the host writes to `CMD` for a host command. -/
def encodeCommand (i : Instr) : Word := (opcodeOf i).setWidth 32

end Sys2Proof
end

