-- ==== Sys2Proof/Machine/HostPort.lean ====
section
/-! DEFINITION. The host's side: the register file (10_state.md R11 to R27), the issue of a command (R11, 30_encoding.md R65, R70),
the reset input (70_reset_and_hazards.md R180), and the pseudo-operations of host software (R74, R149, R150). -/

namespace Sys2Proof.Machine

/-- The byte offset of a register (R27). -/
def regOffset : HostReg → Word
  | .cmd => 0x00
  | .status => 0x04
  | .arg0 => 0x08
  | .arg1 => 0x0C
  | .arg2 => 0x10
  | .bankBase => 0x14
  | .result0 => 0x18
  | .result1 => 0x1C
  | .id => 0x20
  | .size => 0x24
  | .nsect => 0x28
  | .secsz => 0x2C
  | .divs => 0x30
  | .dflags => 0x34
  | .protIdx => 0x38
  | .protData => 0x3C

/-- The registers in the order of their offsets. -/
def hostRegs : List HostReg :=
  [.cmd, .status, .arg0, .arg1, .arg2, .bankBase, .result0, .result1, .id, .size, .nsect, .secsz, .divs, .dflags,
   .protIdx, .protData]

/-- The register at a byte offset, if there is one. -/
def regAt (off : Word) : Option HostReg := hostRegs.find? fun r => regOffset r = off

/-- The bus address of a register (R27). -/
def regAddress (r : HostReg) : Word := Config.hostBase + regOffset r

/-- What a host read returns. -/
def readReg (s : State) : HostReg → Word
  | .cmd => s.regs.cmd
  | .status => statusWord s.regs
  | .arg0 => s.regs.arg0
  | .arg1 => s.regs.arg1
  | .arg2 => s.regs.arg2
  | .bankBase => s.regs.bankBase
  | .result0 => s.regs.result0
  | .result1 => s.regs.result1
  | .id => s.desc.id
  | .size => s.desc.size
  | .nsect => s.desc.nsect
  | .secsz => s.desc.secsz
  | .divs => divsWord s.desc
  | .dflags => dflagsWord s.desc
  | .protIdx => s.regs.protIdx
  | .protData => bit (protAt s.prot s.regs.protIdx.toNat)

/-- The first frame of an operation, with the arguments it runs with when it is the command itself: WRSR and PP take
`ARG0..2` as they stand (R66), SE the offset of the sector `ARG0` names (R123). The composed commands read their
operands from `w_a0..2`. -/
def firstFrame (s : State) : Instr → Frame
  | .wrsr => Frame.start .wrsr s.regs.arg0 0 0
  | .pp => Frame.start .pp s.regs.arg0 s.regs.arg1 s.regs.arg2
  | .se => Frame.start .se (sectorOffset s.desc s.regs.arg0) 0 0
  | i => Frame.start i 0 0 0

/-- An operation is put at step 1 with `BUSY` set, `DONE` and `RC` clear, and the operands copied (R11, R12, R26). -/
def State.enter (s : State) (i : Instr) : State :=
  { s with
    regs := { s.regs with busy := true, done := false, rc := 0 }
    work := { s.work with a0 := s.regs.arg0, a1 := s.regs.arg1, a2 := s.regs.arg2 }
    pos := [firstFrame s i] }

/-- A host write to `CMD` while not busy: `CMD` keeps bits 7:0 of the value, a legal code is issued (R11), an illegal one
completes at once with code 3 (R70, R167; log 23). -/
def State.issue (s : State) (w : Word) : State :=
  let s' := { s with regs.cmd := (commandCode w).setWidth 32 }
  match decodeCommand w with
  | some i => s'.enter i
  | none => s'.complete 3

/-- A host write to a register (R11 to R22, R27). Writes to read-only registers are ignored; what the host must not write
while busy is refused (R169, U2). A write to `PROT_DATA` that names no flag writes nothing, busy or not (R22). -/
def writeReg (s : State) (r : HostReg) (v : Word) : Result :=
  match r with
  | .cmd => if s.regs.busy then .refused .commandWhileBusy else .next (s.issue v)
  | .arg0 => .next { s with regs.arg0 := v }
  | .arg1 => .next { s with regs.arg1 := v }
  | .arg2 => .next { s with regs.arg2 := v }
  | .bankBase => if s.regs.busy then .refused .bankBaseWhileBusy else .next { s with regs.bankBase := v }
  | .protIdx => .next { s with regs.protIdx := v }
  | .protData =>
    if s.prot.length ≤ s.regs.protIdx.toNat then .next s
    else if s.regs.busy then .refused .protectWhileBusy
    else .next { s with prot := s.prot.set s.regs.protIdx.toNat (v.getLsbD 0) }
  | .status | .result0 | .result1 | .id | .size | .nsect | .secsz | .divs | .dflags => .next s

/-- The reset input (R180): the block takes the values of R181 and makes no port action; `CTRL`, the part, the buffer,
the clock register and the model's own inputs and trace are not the block's (log 28). -/
def State.hwReset (s : State) : State :=
  { s with
    regs := HostRegs.reset
    desc := Descriptor.reset
    prot := List.replicate s.prot.length false
    pos := []
    work := WorkRegs.reset
    timer := 0
    progress := false }

/-- One host action. `wait` and `pass` are taken by the schedule and do nothing here. -/
def hostStep (s : State) : HostAction → Result
  | .write off v =>
    match regAt off with
    | some r => writeReg s r v
    | none => .refused .noHostRegister
  | .read off =>
    match regAt off with
    | some r => .next { s with hostData := readReg s r }
    | none => .refused .noHostRegister
  | .wait => .next s
  | .pass => .next s
  | .hwReset => .next s.hwReset
  | .store a b => .next { s with buf := Memory.write s.buf a.toNat b }
  | .clock w => .next { s with clkCfg := w }

/-! ### Host software -/

/-- The host actions of one command: the operands, the command, `wait` (30_encoding.md R73). -/
def runCommand (i : Instr) (a0 a1 a2 : Word) : List HostAction :=
  [.write (regOffset .arg0) a0, .write (regOffset .arg1) a1, .write (regOffset .arg2) a2,
   .write (regOffset .cmd) (encodeCommand i), .wait]

/-- `FLASH_INIT` for one bank (R149): identify, read the capacity, protect the given sectors. -/
def flashInit (base : Word) (protect : List Word) : List HostAction :=
  [.write (regOffset .bankBase) base, .write (regOffset .cmd) (encodeCommand .ident), .wait,
   .read (regOffset .size)] ++
  protect.flatMap fun i => [.write (regOffset .protIdx) i, .write (regOffset .protData) 1]

/-- `PRINT_INFO` expands to no hardware action (R150). -/
def printInfo : List HostAction := []

end Sys2Proof.Machine
end

