-- ==== Sys2Proof/Machine/Schedule.lean ====
section
/-! DEFINITION. Which agent moves (00_scope.md R5; log 2), the sequencer's move, and how an opcode-table word is put where the
sequencer takes its next step from. -/

namespace Sys2Proof.Machine

/-- The sequencer's move: one step of the innermost procedure; while idle it waits for a command (R161, R180). -/
def seqMove (s : State) : Result :=
  match s.pos with
  | f :: _ => exec f.op s.elapse
  | [] => .next s

/-- One step of the machine. The host acts first while its next action is an access; `pass` and a `wait` while busy let
the sequencer move; with no host action left only the sequencer moves. -/
def move (s : State) : Result :=
  match s.host with
  | [] => seqMove s
  | .pass :: rest => seqMove { s with host := rest }
  | .wait :: rest => if s.regs.busy then seqMove s else .next { s with host := rest }
  | a :: rest => hostStep { s with host := rest } a

/-- The state in which the next step runs the operation of an opcode-table word: the sequencer is put at step 1 of it
and no host action comes first; a command word also stands in `CMD`. A word that is no operation leaves an idle
sequencer, and as a command word the host is about to write it (log 21). -/
def fetchWord (s : State) (nbits w : Nat) : State :=
  let word := BitVec.ofNat 32 (w % 2 ^ nbits)
  match tableSpace nbits, decodeTableWord nbits w with
  | .command, some i => { s with host := [], regs.cmd := (commandCode word).setWidth 32 }.enter i
  | .wire, some i => { s with host := [] }.enter i
  | .command, none => { s with host := [.write (regOffset .cmd) word], pos := [], regs.busy := false }
  | .wire, none => { s with host := [], pos := [], regs.busy := false }

end Sys2Proof.Machine
end

