-- ==== Sys2Proof/Machine/Step.lean ====
section
/-! DEFINITION. One step of the machine, and where the next operation is put. -/

namespace Sys2Proof.Machine

/-- One step: one port action or one internal update of the sequencer, or one host action (00_scope.md R5). -/
def step (s : State) : Host.Outcome State Fault Refusal := move s

/-- `s` with the operation of an opcode-table word where `step` takes its next operation from. -/
def State.withFetchWord (s : State) (nbits w : Nat) : State := fetchWord s nbits w

end Sys2Proof.Machine
end

