-- ==== Sys2Proof/Safety.lean ====
section
/-! DEFINITION. The vocabulary of the claims: runs, the traces the specification writes out, the invariant of the machine, and the
discipline of the chip-select window. -/

namespace Sys2Proof.Machine

/-! ### Runs -/

/-- `k` steps from `s` lead to `t`, none of them a fault or a refusal. -/
def Runs (k : Nat) (s t : State) : Prop := Host.Core.run Sys2Proof.core k s = .next t

/-- `op` is at step 1 with these arguments, called by another procedure or as the command itself. -/
def CalledWith (s : State) (op : Instr) (a0 a1 a2 : Word) : Prop := ∃ fs, s.pos = Frame.start op a0 a1 a2 :: fs

/-- The host command `op` is at step 1 with nothing called, its operands in the working registers (R26). -/
def Issued (s : State) (op : Instr) : Prop := ∃ a0 a1 a2, s.pos = [Frame.start op a0 a1 a2]

/-- No host action comes first, and the part is the oracle of 00_scope.md R5. -/
def Undisturbed (s : State) : Prop := s.host = [] ∧ s.part = none

/-- What a procedure that has run to its end leaves: the port actions `acts` were made, in this order and no other; the
control register holds `ctrl`; `n` answers were drawn; the procedure has returned, or completed the command it was
(`State.finish`); of the working registers `w_b`, `w_word` and `w_div` may have changed; and nothing else that the host
or a later command can see has. -/
structure Finished (s t : State) (acts : List PortAction) (ctrl : Word) (n : Nat) : Prop where
  trace : t.trace = s.trace ++ acts
  pos : t.pos = s.finish.pos
  regs : t.regs = s.finish.regs
  work : t.work = { s.work with b := t.work.b, word := t.work.word, div := t.work.div }
  ctrl : t.ctrl = ctrl
  answers : t.answers = s.answers.drop n
  draws : t.draws = s.draws + n
  desc : t.desc = s.desc
  prot : t.prot = s.prot
  buf : t.buf = s.buf
  clkCfg : t.clkCfg = s.clkCfg
  part : t.part = s.part
  par : t.par = s.par
  host : t.host = s.host
  hostData : t.hostData = s.hostData

/-- The sum of the delays of a trace, in time-units (70_reset_and_hazards.md R197). -/
def delaySum : List PortAction → Nat
  | [] => 0
  | .delay n :: es => n + delaySum es
  | _ :: es => delaySum es

/-- `op` runs from its step 1 to its end, and the delays of the port actions it makes sum to `n` time-units
(70_reset_and_hazards.md R197). -/
def EndsWithDelay (s : State) (op : Instr) (n : Nat) : Prop :=
  ∃ u k t, exec op s = .next u ∧ Runs k u t ∧ t.pos = s.finish.pos ∧ t.regs = s.finish.regs ∧
    ∃ acts, t.trace = s.trace ++ acts ∧ delaySum acts = n

/-- The status bits are the only command-interface registers that may change, and only as a completion with code 0
changes them. -/
def StatusFrame (s t : State) : Prop :=
  t.regs = s.regs ∨ t.regs = { s.regs with rc := 0, done := true, busy := false }

/-! ### Traces -/

/-- The byte an oracle answer gives an 8-bit read. -/
def answerByte (w : Word) : Byte := w.extractLsb' 0 8

/-- The answers to one status poll (40_control_word_and_transaction.md R83): any number of bytes whose masked value is
not the wanted one, then one whose masked value is. -/
def PollAnswers (mask want : Byte) (ws : List Word) : Prop :=
  ∃ bad good, ws = bad ++ [good] ∧ (∀ w ∈ bad, answerByte w &&& mask ≠ want) ∧ answerByte good &&& mask = want

/-- The trace of `Txn` (R81): `base` is `DATA_ADDR`, `tail` what step T4 does. -/
def txnTrace (base : Word) (div : DivCode) (out : List Byte) (tail : List PortAction) : List PortAction :=
  [.ctrlWrite (controlWord div .low .userMode), .delay 100] ++
  (out.flatMap fun b => [.dataWrite8 base b, .delay 10]) ++ tail ++
  [.ctrlWrite (controlWord div .high .userMode), .delay 100]

/-- The reads of a status poll. -/
def pollTrace (base : Word) (ws : List Word) : List PortAction := ws.map fun w => .dataRead8 base (answerByte w)

/-- The trace of `SPOLL` (R85). -/
def spollTrace (base : Word) (div : DivCode) (ws : List Word) : List PortAction :=
  txnTrace base div [0x05] (pollTrace base ws)

/-- The trace of `WREN` (42_primitives.md R120). -/
def wrenTrace (base : Word) (wdiv : DivCode) (wel : List Word) : List PortAction :=
  txnTrace base wdiv [0x06] [] ++ spollTrace base wdiv wel

/-- The trace of `WRSR(v)` (R121). -/
def wrsrTrace (base : Word) (wdiv : DivCode) (v : Byte) (wel wip : List Word) : List PortAction :=
  wrenTrace base wdiv wel ++ txnTrace base wdiv [0x01, v] [] ++ spollTrace base wdiv wip

/-- The trace of step G9 for `k = from .. from + n - 1` (R122): fetch, send, settle. -/
def dataTrace (base : Word) (buf : Memory) (src : Word) : Nat → Nat → List PortAction
  | _, 0 => []
  | k, n + 1 =>
    let a := src + BitVec.ofNat 32 k
    let b := Memory.read buf a.toNat
    [.bufRead8 a b, .dataWrite8 base b, .delay 10] ++ dataTrace base buf src (k + 1) n

/-- The trace of steps G2 to G11 (R122). -/
def spiPpTrace (base : Word) (wdiv : DivCode) (buf : Memory) (a2 a1 a0 : Byte) (src n : Word) : List PortAction :=
  txnTrace base wdiv [0x02, a2, a1, a0] (dataTrace base buf src 0 n.toNat)

/-- The trace of `PP(off, src, n)` (R122): the address is sent high byte first (R42, R68). -/
def ppTrace (base : Word) (wdiv : DivCode) (buf : Memory) (off src n : Word) (wel wip : List Word) :
    List PortAction :=
  wrenTrace base wdiv wel ++
  spiPpTrace base wdiv buf (off.extractLsb' 16 8) (off.extractLsb' 8 8) (off.extractLsb' 0 8) src n ++
  spollTrace base wdiv wip

/-- The trace of `SE(off)` (R123). -/
def seTrace (base : Word) (wdiv ediv : DivCode) (off : Word) (wel wip : List Word) : List PortAction :=
  wrenTrace base wdiv wel ++
  txnTrace base ediv [0xD8, off.extractLsb' 16 8, off.extractLsb' 8 8, off.extractLsb' 0 8] [] ++
  spollTrace base ediv wip

/-- The trace of `RESET` (R124). -/
def resetTrace (rdiv : DivCode) : List PortAction := [.ctrlWrite (controlWord rdiv .high .fastRead), .delay 100]

/-- The trace of `RDID` (41_identification.md R100). -/
def rdidTrace (base w : Word) : List PortAction := txnTrace base 0 [0x9F] [.dataRead32 base w]

/-- The answers to the two polls of one page program or sector erase. -/
structure TwoPolls where
  wel : List Word
  wip : List Word

/-- They are the answers of a WEL poll and of a WIP poll. -/
def TwoPolls.Good (p : TwoPolls) : Prop := PollAnswers 0x02 0x02 p.wel ∧ PollAnswers 0x01 0x00 p.wip

/-- All answers of a list of operations, in order. -/
def allAnswers (ps : List TwoPolls) : List Word := ps.flatMap fun p => p.wel ++ p.wip

/-- The unprotected sectors of `first .. first + n - 1`, in increasing order (43_range_and_buffer.md R143). -/
def unprotected (prot : List Bool) (first n : Nat) : List Nat := (List.range' first n).filter fun i => !protAt prot i

/-- The chunks of a buffered write (R146): offset, buffer address, length, at most `fuel` of them. -/
def chunks : Nat → Word → Word → Word → List (Word × Word × Word)
  | 0, _, _, _ => []
  | fuel + 1, off, src, cnt =>
    if cnt = 0 then []
    else
      let n := BitVec.ofNat 32 (min (256 - off.toNat % 256) cnt.toNat)
      (off, src, n) :: chunks fuel (off + n) (src + n) (cnt - n)

/-- The chunks of a buffered write with the answers their polls get, as a trace (R145 step B4). -/
def wbufTrace (base : Word) (wdiv : DivCode) (buf : Memory) (cs : List (Word × Word × Word)) (ps : List TwoPolls) :
    List PortAction :=
  (cs.zip ps).flatMap fun cp => ppTrace base wdiv buf cp.1.1 cp.1.2.1 cp.1.2.2 cp.2.wel cp.2.wip

/-- The sectors of an erase with the answers their polls get, as a trace (R143). -/
def eraseTrace (base : Word) (d : Descriptor) (is : List Nat) (ps : List TwoPolls) : List PortAction :=
  (is.zip ps).flatMap fun ip =>
    seTrace base d.wdiv d.ediv (BitVec.ofNat 32 ip.1 * d.secsz) ip.2.wel ip.2.wip

/-- The word loads of a read and their stores, low byte first (R147 step C3). -/
def rbufWords : Word → Word → List Word → List PortAction
  | _, _, [] => []
  | src, dst, w :: ws =>
    [.winRead32 src w, .bufWrite8 dst (w.extractLsb' 0 8), .bufWrite8 (dst + 1) (w.extractLsb' 8 8),
     .bufWrite8 (dst + 2) (w.extractLsb' 16 8), .bufWrite8 (dst + 3) (w.extractLsb' 24 8)] ++
    rbufWords (src + 4) (dst + 4) ws

/-- The byte loads of the remainder and their stores (R147 step C6). -/
def rbufBytes : Word → Word → List Word → List PortAction
  | _, _, [] => []
  | src, dst, w :: ws =>
    [.winRead8 src (answerByte w), .bufWrite8 dst (answerByte w)] ++ rbufBytes (src + 1) (dst + 1) ws

/-- The bytes of words, low byte first (20_memory.md R43). -/
def bytesOf (ws : List Word) : List Byte :=
  ws.flatMap fun w => [w.extractLsb' 0 8, w.extractLsb' 8 8, w.extractLsb' 16 8, w.extractLsb' 24 8]

/-- The address `dst + k` of the buffer, modulo 2^32. -/
def bufAddr (dst : Word) (k : Nat) : Nat := (dst + BitVec.ofNat 32 k).toNat

/-! ### The invariant -/

/-- The last step of a procedure. -/
def lastStep : Instr → Nat
  | .ident => 11
  | .wren => 3
  | .wrsr | .pp | .se => 4
  | .reset => 3
  | .erase => 10
  | .wbuf => 7
  | .rbuf => 13
  | .rdid | .spiWren | .spoll | .spiWrsr _ | .spiSe _ _ _ => 8
  | .spiPp _ _ _ => 10

/-- How many bytes a transaction sends before its tail (30_encoding.md R72). -/
def headerLength : Instr → Nat
  | .rdid | .spiWren | .spoll => 1
  | .spiWrsr _ => 2
  | .spiPp _ _ _ | .spiSe _ _ _ => 4
  | .ident | .wren | .wrsr | .pp | .se | .reset | .erase | .wbuf | .rbuf => 0

/-- The loop counter of a transaction is inside its loop. -/
def counterOk (f : Frame) : Bool :=
  f.op.space = .command ∨
  if f.step = 3 ∨ f.step = 4 then f.k < headerLength f.op
  else if f.step = 9 ∨ f.step = 10 then f.k < f.a1.toNat
  else if f.step = 5 ∧ f.op.format = .w4n then f.k ≤ f.a1.toNat
  else true

/-- A frame is at a step its procedure has. -/
def Frame.ok (f : Frame) : Bool := 1 ≤ f.step ∧ f.step ≤ lastStep f.op ∧ counterOk f

/-- The procedure that a caller at this step has called (R81, R85, R111, R120 to R123, R140, R145). -/
def calls (g : Frame) (op : Instr) : Bool :=
  match g.op, g.step with
  | .ident, 1 => op = .rdid
  | .ident, 9 => op = .wrsr
  | .ident, 10 => op = .reset
  | .wren, 1 => op = .spiWren
  | .wren, 2 => op = .spoll
  | .wrsr, 1 => op = .wren
  | .wrsr, 2 => op = .spiWrsr (statusValue g.a0)
  | .wrsr, 3 => op = .spoll
  | .pp, 1 => op = .wren
  | .pp, 2 => op = .spiPp (addrHigh g.a0) (addrMid g.a0) (addrLow g.a0)
  | .pp, 3 => op = .spoll
  | .se, 1 => op = .wren
  | .se, 2 => op = .spiSe (addrHigh g.a0) (addrMid g.a0) (addrLow g.a0)
  | .se, 3 => op = .spoll
  | .erase, 5 => op = .se
  | .erase, 9 => op = .reset
  | .wbuf, 4 => op = .pp
  | .wbuf, 6 => op = .reset
  | _, _ => false

/-- Every frame is at a step of its procedure, and each caller has called the next (10_state.md R25). -/
def stackOk : List Frame → Bool
  | [] => true
  | [f] => f.ok
  | f :: g :: fs => f.ok && calls g f.op && stackOk (g :: fs)

/-- The frame is a transaction between its steps T1 and T5 (R86). -/
def inWindow (f : Frame) : Bool :=
  f.op.space = .wire ∧ ((2 ≤ f.step ∧ f.step ≤ 6) ∨ f.step = 9 ∨ f.step = 10)

/-- The innermost procedure is inside a chip-select window. -/
def State.inWindow (s : State) : Bool :=
  match s.pos with
  | f :: _ => Sys2Proof.Machine.inWindow f
  | [] => false

/-- A control word of R87: one of the three of its divisor code. -/
def ctrlLegal (w : Word) : Bool :=
  w = controlWord (ctrlDiv w) .low .userMode ∨ w = controlWord (ctrlDiv w) .high .userMode ∨
    w = controlWord (ctrlDiv w) .high .fastRead

/-- The invariant of the machine. -/
structure State.Inv (s : State) : Prop where
  /-- `BUSY` is 1 exactly when `POS` is not `IDLE` (R25). -/
  busy : s.regs.busy = !s.pos.isEmpty
  /-- The position is one the procedures can be at. -/
  stack : stackOk s.pos = true
  /-- A transaction between T1 and T5 has its window open (R29, R86). -/
  window : s.inWindow = true → windowOpen s.ctrl = true
  /-- `CTRL` holds a control word of R87, every other bit 0 (R28). -/
  ctrl : ctrlLegal s.ctrl = true
  /-- Code 2 is reserved and never produced (60_exceptions.md R162). -/
  rc : s.regs.rc ≠ 2
  /-- Bits 31:8 of `CMD` read 0 (R11). -/
  cmd : s.regs.cmd.toNat < 2 ^ 8
  /-- Bits 31:24 of `ID` read 0 (R17). -/
  id : s.desc.id.toNat < 2 ^ 24
  /-- Every row of the part table fits (R24). -/
  table : s.par.table.all PartRow.fits = true
  /-- `NSECT * SECSZ <= SIZE` (R24). -/
  geometry : s.desc.nsect.toNat * s.desc.secsz.toNat ≤ s.desc.size.toNat
  /-- The buffer keeps its canonical form. -/
  buf : Memory.wf s.buf = true

/-! ### The discipline of the window (R67, R86 to R88) -/

/-- What the trace so far asks of the next action: whether chip-select is low in user mode, whether the next byte sent
is an opcode, and the delay that must come first (0: none). -/
structure Discipline where
  low    : Bool
  opcode : Bool
  owed   : Nat
  deriving DecidableEq, Repr

/-- The six SPI opcodes (30_encoding.md R67). -/
def isOpcode (b : Byte) : Bool := b = 0x9F ∨ b = 0x06 ∨ b = 0x05 ∨ b = 0x01 ∨ b = 0x02 ∨ b = 0xD8

/-- One port action under the discipline, `none` where it is broken: a control write is one of the three of R87, opens
no window while one is open, and owes `T_CTRL`; a data byte is sent only in an open window, the first one an opcode,
and owes `T_BYTE`; data are read only in an open window after the opcode; an owed delay comes before anything else. -/
def disciplineStep (d : Discipline) : PortAction → Option Discipline
  | .ctrlWrite w =>
    if d.owed = 0 ∧ ctrlLegal w ∧ ¬(windowOpen w ∧ d.low) then
      some ⟨windowOpen w, windowOpen w, 100⟩
    else none
  | .delay n => if d.owed = n ∧ n ≠ 0 then some { d with owed := 0 } else none
  | .dataWrite8 _ b =>
    if d.low ∧ d.owed = 0 ∧ (d.opcode → isOpcode b) then some ⟨true, false, 10⟩ else none
  | .dataRead8 _ _ | .dataRead32 _ _ => if d.low ∧ d.owed = 0 ∧ ¬d.opcode then some d else none
  | .winRead32 _ _ | .winRead8 _ _ | .clkCfgRead _ | .bufWrite8 _ _ =>
    if ¬d.low ∧ d.owed = 0 then some d else none
  | .bufRead8 _ _ => if d.low ∧ d.owed = 0 then some d else none

/-- A trace under the discipline, from the controller's default mode. -/
def discipline : Discipline → List PortAction → Option Discipline
  | d, [] => some d
  | d, e :: es =>
    match disciplineStep d e with
    | some d' => discipline d' es
    | none => none

/-- What the position says is asked of the next action. -/
def expected (s : State) : Discipline :=
  match s.pos with
  | [] => ⟨false, false, 0⟩
  | f :: _ =>
    { low := Sys2Proof.Machine.inWindow f
      opcode := f.op.space = .wire ∧ (f.step = 2 ∨ (f.step = 3 ∧ f.k = 0))
      owed :=
        if f.op.space = .wire then
          (if f.step = 2 ∨ f.step = 7 then 100 else if f.step = 4 ∨ f.step = 10 then 10 else 0)
        else if f.op = .reset ∧ f.step = 2 then 100 else 0 }

/-- The window is open exactly when the innermost procedure is inside one, and the whole trace keeps the discipline. -/
structure State.Disciplined (s : State) : Prop where
  window : windowOpen s.ctrl = s.inWindow
  trace : discipline ⟨false, false, 0⟩ s.trace = some (expected s)

/-- The host never asserts the reset input. -/
def noHwReset (host : List HostAction) : Bool := host.all fun a => a ≠ .hwReset

end Sys2Proof.Machine
end

