-- ==== Sys2Proof/Certificates/Slice0/Obligations.lean ====
section
/-! DEFINITION. The statements for the provers. Each docstring names the rules of spec/ it formalises; "log n" is
notes/assumptions/n.md. -/

open Sys2Proof Sys2Proof.Machine

/-! ### Encodings -/

/-- R62, R65, R66, R67: a byte list decodes to a transaction exactly when it begins with its encoding, and a command word
decodes to a command exactly when its bits 7:0 are that command's code. -/
def Obligations.DecodeAndEncodeAgree : Prop :=
  (∀ (i : Instr) (bytes rest : List Byte), i.space = .wire →
    (decode .wire bytes = some (i, rest) ↔ bytes = encode i ++ rest)) ∧
  (∀ (i : Instr) (w : Word), i.space = .command →
    (decodeCommand w = some i ↔ w.extractLsb' 0 8 = opcodeOf i)) ∧
  (∀ (i : Instr) (rest : List Byte), decode i.space (encode i ++ rest) = some (i, rest)) ∧
  (∀ i : Instr, i.space = .command → decodeCommand (encodeCommand i) = some i)

/-- R70: the command codes 0x00 and 0x0A to 0xFF are illegal, and no other code is. -/
def Obligations.IllegalCodesAreThoseOfTheRule : Prop :=
  ∀ w : Word, decodeCommand w = none ↔ (w.extractLsb' 0 8 = 0x00#8 ∨ 0x0A ≤ (w.extractLsb' 0 8).toNat)

/-- R66, R67: the words of the opcode table, written out, decode to their operations. -/
def Obligations.WrittenWordsDecode : Prop :=
  decodeTableWord 32 0x00000001 = some .ident ∧ decodeTableWord 32 0xABCDEF06 = some .reset ∧
  decodeTableWord 32 0x00000007 = some .erase ∧ decodeTableWord 32 0x00000009 = some .rbuf ∧
  decodeTableWord 8 0x9F = some .rdid ∧ decodeTableWord 8 0x05 = some .spoll ∧
  decode .wire [0x01, 0x9C] = some (.spiWrsr 0x9C, []) ∧
  decode .wire [0xD8, 0x1F, 0x00, 0x00] = some (.spiSe 0x1F 0x00 0x00, []) ∧
  decode .wire [0x02, 0x01, 0x23, 0x45, 0xAA] = some (.spiPp 0x01 0x23 0x45, [0xAA]) ∧
  decodeTableWord 32 0x0000000B = none ∧ decodeTableWord 8 0xAB = none

/-- R61, R80: the three fields of a control word read back, and every other bit is 0. -/
def Obligations.ControlWordFields : Prop :=
  ∀ (d : DivCode) (cs : ChipSelect) (m : BusMode),
    ctrlDiv (controlWord d cs m) = d ∧ ctrlSelect (controlWord d cs m) = cs ∧ ctrlMode (controlWord d cs m) = m ∧
    controlWord d cs m &&& 0xFFFFF8F8#32 = 0#32 ∧
    controlWord 0 .low .userMode = 0x00000003#32 ∧ controlWord 0 .high .userMode = 0x00000007#32 ∧
    controlWord 6 .low .userMode = 0x00000603#32 ∧ controlWord 5 .high .fastRead = 0x00000505#32

/-- R68, R42: the three address bytes are `o[23:16]`, `o[15:8]`, `o[7:0]`, high byte first, and carry the low 24 bits. -/
def Obligations.AddressBytesHighFirst : Prop :=
  ∀ o : Word,
    encode (.spiSe (addrHigh o) (addrMid o) (addrLow o)) =
      [0xD8#8, o.extractLsb' 16 8, o.extractLsb' 8 8, o.extractLsb' 0 8] ∧
    encode (.spiPp (addrHigh o) (addrMid o) (addrLow o)) =
      [0x02#8, o.extractLsb' 16 8, o.extractLsb' 8 8, o.extractLsb' 0 8] ∧
    wireOffset (addrHigh o) (addrMid o) (addrLow o) = o.extractLsb' 0 24

/-- R13, R21, R33: the fields of `STATUS`, `DIVS` and `DFLAGS` stand at their bits, and all other bits read 0. -/
def Obligations.StatusWordsHaveTheirFields : Prop :=
  (∀ r : HostRegs, (statusWord r).getLsbD 0 = r.busy ∧ (statusWord r).getLsbD 1 = r.done ∧
    (statusWord r).extractLsb' 4 2 = r.rc ∧ statusWord r &&& 0xFFFFFFCC#32 = 0#32) ∧
  (∀ d : Descriptor, (divsWord d).extractLsb' 0 3 = d.wdiv ∧ (divsWord d).extractLsb' 4 3 = d.ediv ∧
    (divsWord d).extractLsb' 8 3 = d.rdiv ∧ (divsWord d).extractLsb' 16 8 = d.dummy ∧
    divsWord d &&& 0xFF00F888#32 = 0#32) ∧
  (∀ d : Descriptor, (dflagsWord d).getLsbD 0 = d.unknown ∧ (dflagsWord d).getLsbD 1 = d.calSat ∧
    (dflagsWord d).getLsbD 2 = d.identified ∧ dflagsWord d &&& 0xFFFFFFF8#32 = 0#32)

/-- R45, R46: the width of every access is its port's, `CTRL` and the clock register are 4-byte aligned, `CTRL` is only
written and the clock register only read. -/
def Obligations.PortWidthsAreFixed : Prop :=
  ∀ (e : PortAction) (a : BusAccess), e.access = some a →
    (a.space = .ctl → a.bytes = 4 ∧ a.write = true ∧ a.addr.toNat % 4 = 0) ∧
    (a.space = .scu → a.bytes = 4 ∧ a.write = false ∧ a.addr.toNat % 4 = 0) ∧
    (a.space = .buf → a.bytes = 1) ∧
    (a.space = .win → a.write = true → a.bytes = 1) ∧
    (a.space = .win → a.write = false → a.bytes = 1 ∨ a.bytes = 4)

/-! ### Operand arithmetic -/

/-- R146: a chunk is not empty, ends at or before the next multiple of 256 of the offset, is no longer than what
remains, and is the whole remainder unless it ends exactly there. -/
def Obligations.ChunkStaysInItsPage : Prop :=
  ∀ off cnt : Word, cnt ≠ 0 →
    let n := (chunkLength off cnt).toNat
    0 < n ∧ n ≤ 256 ∧ n ≤ cnt.toNat ∧ off.toNat % 256 + n ≤ 256 ∧
    (n = cnt.toNat ∨ (off.toNat + n) % 256 = 0)

/-- R106, R107: the search returns the largest code whose frequency, rounded down, does not exceed the ceiling; where no
code does, it returns code 0 with the saturation bit. -/
def Obligations.CalibrationFindsTheFastestAllowedClock : Prop :=
  ∀ freq ceiling : Nat,
    ((calibrate freq ceiling).2 = false →
      freq / divisor (calibrate freq ceiling).1 ≤ ceiling ∧
      ∀ c : DivCode, freq / divisor c ≤ ceiling → c.toNat ≤ (calibrate freq ceiling).1.toNat) ∧
    ((calibrate freq ceiling).2 = true →
      (calibrate freq ceiling).1 = 0 ∧ ∀ c : DivCode, ceiling < freq / divisor c)

/-- R23, R24: under the invariant every sector of the part lies inside its capacity, at `BANK_BASE + i * SECSZ`. -/
def Obligations.SectorsLieInsideThePart : Prop :=
  ∀ (s : State) (i : Word), s.Inv → i.toNat < s.desc.nsect.toNat →
    (s.sectorStart i - s.regs.bankBase).toNat = i.toNat * s.desc.secsz.toNat ∧
    (s.sectorStart i - s.regs.bankBase).toNat + s.desc.secsz.toNat ≤ s.desc.size.toNat ∧
    s.sectorStart i = s.regs.bankBase + i * s.desc.secsz

/-! ### Reset -/

/-- R181: after reset every host register reads 0, the sequencer is idle, no sector is protected, the timer is
stopped, and `PROGRESS` is 0. -/
def Obligations.ResetLeavesTheValuesOfTheRule : Prop :=
  (∀ r : HostReg, readReg State.reset r = 0) ∧ State.reset.pos = [] ∧ (∀ j, protAt State.reset.prot j = false) ∧
  State.reset.timer = 0 ∧ State.reset.progress = false

/-- R180: the reset input stops whatever runs and takes the reset values; it makes no port action and leaves `CTRL` and
the part as they were. -/
def Obligations.ResetInputLeavesTheController : Prop :=
  ∀ (s : State) (rest : List HostAction), s.host = .hwReset :: rest →
    ∃ t, step s = .next t ∧ (∀ r : HostReg, readReg t r = 0) ∧ t.pos = [] ∧ (∀ j, protAt t.prot j = false) ∧
      t.prot.length = s.prot.length ∧ t.timer = 0 ∧ t.progress = false ∧ t.trace = s.trace ∧ t.ctrl = s.ctrl ∧
      t.part = s.part ∧ t.buf = s.buf ∧ t.clkCfg = s.clkCfg ∧ t.par = s.par ∧ t.host = rest

/-! ### The host's side -/

/-- R11, R12, R26, R66, R69, R123: a write of a legal code to `CMD` while not busy sets `BUSY`, clears `DONE` and `RC`,
copies the operands and puts the sequencer at step 1 of the command; bits 31:8 are ignored and read 0. That the operands
are copied, and the offset of SE formed, in the step that issues the command is DEDUCED (R26 against R12; log 23). -/
def Obligations.CommandWriteIssuesTheCommand : Prop :=
  ∀ (s : State) (w : Word) (rest : List HostAction) (i : Instr),
    s.host = .write 0x00 w :: rest → s.regs.busy = false → decodeCommand w = some i →
    ∃ t f, step s = .next t ∧ t.pos = [f] ∧ f.op = i ∧ f.step = 1 ∧ f.k = 0 ∧
      t.regs = { s.regs with cmd := w &&& 0xFF#32, busy := true, done := false, rc := 0 } ∧
      t.work = { s.work with a0 := s.regs.arg0, a1 := s.regs.arg1, a2 := s.regs.arg2 } ∧
      (i = .wrsr → f.a0 = s.regs.arg0) ∧
      (i = .pp → f.a0 = s.regs.arg0 ∧ f.a1 = s.regs.arg1 ∧ f.a2 = s.regs.arg2) ∧
      (i = .se → f.a0 = s.regs.arg0 * s.desc.secsz) ∧
      t.trace = s.trace ∧ t.desc = s.desc ∧ t.prot = s.prot ∧ t.ctrl = s.ctrl ∧ t.buf = s.buf ∧ t.part = s.part ∧
      t.host = rest

/-- R70, R167: an illegal code (0x00, or 0x0A to 0xFF) completes at once with code 3, without a port action, and changes
no descriptor, result or flag register. -/
def Obligations.IllegalCommandCompletesWithThree : Prop :=
  ∀ (s : State) (w : Word) (rest : List HostAction),
    s.host = .write 0x00 w :: rest → s.regs.busy = false →
    (w.extractLsb' 0 8 = 0x00#8 ∨ 0x0A ≤ (w.extractLsb' 0 8).toNat) →
    ∃ t, step s = .next t ∧ t.pos = [] ∧
      t.regs = { s.regs with cmd := w &&& 0xFF#32, busy := false, done := true, rc := 3 } ∧
      t.trace = s.trace ∧ t.desc = s.desc ∧ t.prot = s.prot ∧ t.ctrl = s.ctrl ∧ t.work = s.work ∧ t.buf = s.buf ∧
      t.host = rest

/-- R169 (U2): while busy a write to `CMD`, to `BANK_BASE` or to a protected flag is refused; each refusal is the
model's answer to behaviour the rule leaves unspecified (log 14). R22: a write to `PROT_DATA` that names no flag is not
one of them: it writes nothing. -/
def Obligations.WritesTheHostMustNotMakeAreRefused : Prop :=
  ∀ (s : State) (v : Word) (rest : List HostAction), s.regs.busy = true →
    (s.host = .write 0x00 v :: rest → step s = .refused .commandWhileBusy) ∧
    (s.host = .write 0x14 v :: rest → step s = .refused .bankBaseWhileBusy) ∧
    (s.regs.protIdx.toNat < s.prot.length → s.host = .write 0x3C v :: rest →
      step s = .refused .protectWhileBusy) ∧
    (s.prot.length ≤ s.regs.protIdx.toNat → s.host = .write 0x3C v :: rest →
      step s = .next { s with host := rest })

/-- R12, R22, R14: a write to an operand register or to `PROT_IDX`, also while a command runs, and a write to `BANK_BASE`
while none does, changes that register and nothing else. -/
def Obligations.RegisterWritesChangeTheRegisterOnly : Prop :=
  ∀ (s : State) (v : Word) (rest : List HostAction),
    (s.host = .write 0x08 v :: rest → step s = .next { s with host := rest, regs.arg0 := v }) ∧
    (s.host = .write 0x0C v :: rest → step s = .next { s with host := rest, regs.arg1 := v }) ∧
    (s.host = .write 0x10 v :: rest → step s = .next { s with host := rest, regs.arg2 := v }) ∧
    (s.host = .write 0x38 v :: rest → step s = .next { s with host := rest, regs.protIdx := v }) ∧
    (s.regs.busy = false → s.host = .write 0x14 v :: rest → step s = .next { s with host := rest, regs.bankBase := v })

/-- R27: a read at each of the sixteen offsets returns the register the map has there and changes nothing the hardware
has; a write to a read-only register is ignored. -/
def Obligations.RegisterFileFollowsTheMap : Prop :=
  (∀ (s : State) (off v : Word) (rest : List HostAction),
    (off, v) ∈ [(0x00#32, s.regs.cmd), (0x04, statusWord s.regs), (0x08, s.regs.arg0), (0x0C, s.regs.arg1),
      (0x10, s.regs.arg2), (0x14, s.regs.bankBase), (0x18, s.regs.result0), (0x1C, s.regs.result1),
      (0x20, s.desc.id), (0x24, s.desc.size), (0x28, s.desc.nsect), (0x2C, s.desc.secsz), (0x30, divsWord s.desc),
      (0x34, dflagsWord s.desc), (0x38, s.regs.protIdx),
      (0x3C, if protAt s.prot s.regs.protIdx.toNat then 1 else 0)] →
    s.host = .read off :: rest → step s = .next { s with host := rest, hostData := v }) ∧
  (∀ (s : State) (off v : Word) (rest : List HostAction),
    off ∈ [0x04#32, 0x18, 0x1C, 0x20, 0x24, 0x28, 0x2C, 0x30, 0x34] →
    s.host = .write off v :: rest → step s = .next { s with host := rest })

/-- R22: while not busy a write to `PROT_DATA` sets the flag `PROT_IDX` names to bit 0 of the value and leaves every
other flag; an index beyond the flags writes nothing and reads 0, busy or not. -/
def Obligations.ProtectedFlagWindow : Prop :=
  ∀ (s : State) (v : Word) (rest : List HostAction),
    (s.regs.busy = false ∨ s.prot.length ≤ s.regs.protIdx.toNat) → s.host = .write 0x3C v :: rest →
    ∃ t, step s = .next t ∧ t.prot.length = s.prot.length ∧ t.regs = s.regs ∧ t.desc = s.desc ∧ t.trace = s.trace ∧
      (∀ j, j ≠ s.regs.protIdx.toNat → protAt t.prot j = protAt s.prot j) ∧
      (s.regs.protIdx.toNat < s.prot.length →
        protAt t.prot s.regs.protIdx.toNat = v.getLsbD 0 ∧
        readReg t .protData = (if v.getLsbD 0 then 1 else 0)) ∧
      (s.prot.length ≤ s.regs.protIdx.toNat → t.prot = s.prot ∧ readReg t .protData = 0)

/-- R149: the last part of `FLASH_INIT` protects the sectors it is given, and no port action is made. -/
def Obligations.FlashInitProtectsItsSectors : Prop :=
  ∀ (s : State) (protect : List Word) (rest : List HostAction), s.regs.busy = false →
    s.host = (protect.flatMap fun i => [HostAction.write 0x38 i, .write 0x3C 1]) ++ rest →
    ∃ t, Runs (2 * protect.length) s t ∧ t.host = rest ∧ t.trace = s.trace ∧ t.desc = s.desc ∧
      ∀ j, protAt t.prot j = (protAt s.prot j || (decide (j < s.prot.length) && protect.any fun i => i.toNat = j))

/-! ### Fetching and running -/

/-- R25, R50, R73: with no host action to come a step is `exec` of the innermost procedure, after the last delay's time
has passed; `pass` and a `wait` while busy let the sequencer make the same step; an idle sequencer waits. The model's
choices: the schedule and `pass` (log 2), the timer stopped (log 17) and PROGRESS cleared (log 18) before the step. -/
def Obligations.StepRunsTheInnermostProcedure : Prop :=
  (∀ (s : State) (f : Frame) (fs : List Frame), s.pos = f :: fs →
    (s.host = [] → step s = exec f.op { s with timer := 0, progress := false }) ∧
    (∀ rest, s.host = .pass :: rest → step s = exec f.op { s with host := rest, timer := 0, progress := false }) ∧
    (∀ rest, s.host = .wait :: rest → s.regs.busy = true →
      step s = exec f.op { s with timer := 0, progress := false })) ∧
  (∀ s : State, s.pos = [] → s.host = [] → step s = .next s) ∧
  (∀ (s : State) (rest : List HostAction), s.host = .wait :: rest → s.regs.busy = false →
    step s = .next { s with host := rest })

/-- The word placed where the sequencer takes its next operation from is decoded, and the next step runs exactly that
operation from its step 1 (log 21). -/
def Obligations.PlacedWordRunsNext : Prop :=
  ∀ (s : State) (nbits w : Nat) (i : Instr), decodeTableWord nbits w = some i →
    step (s.withFetchWord nbits w) = exec i { s.withFetchWord nbits w with timer := 0, progress := false } ∧
    ∃ f, (s.withFetchWord nbits w).pos = [f] ∧ f.op = i ∧ f.step = 1

/-- R25, R126, R161: at its end a called procedure returns to the step after its call and changes nothing else; a
primitive that is the command itself completes with code 0. That a transaction with no caller does so too is the
model's choice (log 20). -/
def Obligations.ProceduresReturnOrComplete : Prop :=
  ∀ (s : State) (f : Frame) (fs : List Frame), s.pos = f :: fs →
    ((f.op = .wren ∧ f.step = 3) ∨ ((f.op = .wrsr ∨ f.op = .pp ∨ f.op = .se) ∧ f.step = 4) ∨
      (f.op = .reset ∧ f.step = 3) ∨ (f.op.space = .wire ∧ f.step = 8)) →
    (∀ g gs, fs = g :: gs → exec f.op s = .next { s with pos := { g with step := g.step + 1 } :: gs }) ∧
    (fs = [] → exec f.op s =
      .next { s with pos := [], regs := { s.regs with rc := 0, done := true, busy := false } })

/-- R161: the composed commands end with `complete(0)`, which writes `RC`, `DONE`, `BUSY` and `POS` in one step and
performs no port action; IDENT sets `IDENTIFIED` in that step (R111). -/
def Obligations.CommandsCompleteInOneStep : Prop :=
  ∀ (s : State) (f : Frame) (fs : List Frame), s.pos = f :: fs →
    ((f.op = .erase ∧ f.step = 10) ∨ (f.op = .wbuf ∧ f.step = 7) ∨ (f.op = .rbuf ∧ f.step = 13) →
      exec f.op s = .next { s with pos := [], regs := { s.regs with rc := 0, done := true, busy := false } }) ∧
    (f.op = .ident ∧ f.step = 11 →
      exec f.op s = .next { s with
        pos := [], regs := { s.regs with rc := 0, done := true, busy := false }, desc.identified := true })

/-! ### What each operation does, from its step 1 to its end -/

/-- R85, R83: SPOLL sends 0x05 and reads the status byte until the masked bit has the wanted value, at least once. -/
def Obligations.StatusPollRuns : Prop :=
  ∀ (s : State) (mask want : Byte) (div : DivCode) (ws rest : List Word), Undisturbed s →
    CalledWith s .spoll (mask.setWidth 32) (want.setWidth 32) (div.setWidth 32) →
    s.answers = ws ++ rest → PollAnswers mask want ws →
    ∃ u k t, exec .spoll s = .next u ∧ Runs k u t ∧
      Finished s t (spollTrace s.regs.bankBase div ws) (controlWord div .high .userMode) ws.length

/-- R100, R84: RDID sends 0x9F at divisor code 0, makes one 32-bit read, and leaves the word read; its bits 23:0 are the
id, which IDENT takes from it. -/
def Obligations.ReadIdRuns : Prop :=
  ∀ (s : State) (a0 a1 a2 w : Word) (rest : List Word), Undisturbed s → CalledWith s .rdid a0 a1 a2 →
    s.answers = w :: rest →
    ∃ u k t, exec .rdid s = .next u ∧ Runs k u t ∧ t.work.word = w ∧
      Finished s t (rdidTrace s.regs.bankBase w) (controlWord 0 .high .userMode) 1

/-- R81, R82, R125: the transactions that only send: 0x06 and 0x01 v at `WDIV`, 0xD8 and its address at `EDIV`. -/
def Obligations.SendOnlyTransactionsRun : Prop :=
  ∀ (s : State) (a0 a1 a2 : Word), Undisturbed s →
    (CalledWith s .spiWren a0 a1 a2 → ∃ u k t, exec .spiWren s = .next u ∧ Runs k u t ∧
      Finished s t (txnTrace s.regs.bankBase s.desc.wdiv [0x06] []) (controlWord s.desc.wdiv .high .userMode) 0) ∧
    (∀ v : Byte, CalledWith s (.spiWrsr v) a0 a1 a2 → ∃ u k t, exec (.spiWrsr v) s = .next u ∧ Runs k u t ∧
      Finished s t (txnTrace s.regs.bankBase s.desc.wdiv [0x01, v] []) (controlWord s.desc.wdiv .high .userMode) 0) ∧
    (∀ b2 b1 b0 : Byte, CalledWith s (.spiSe b2 b1 b0) a0 a1 a2 →
      ∃ u k t, exec (.spiSe b2 b1 b0) s = .next u ∧ Runs k u t ∧
      Finished s t (txnTrace s.regs.bankBase s.desc.ediv [0xD8, b2, b1, b0] [])
        (controlWord s.desc.ediv .high .userMode) 0)

/-- R122 steps G2 to G11: the page-program transaction fetches each of its `n` bytes from the buffer immediately before
it sends it. -/
def Obligations.PageProgramTransactionRuns : Prop :=
  ∀ (s : State) (b2 b1 b0 : Byte) (src n a2 : Word), Undisturbed s → CalledWith s (.spiPp b2 b1 b0) src n a2 →
    ∃ u k t, exec (.spiPp b2 b1 b0) s = .next u ∧ Runs k u t ∧
      Finished s t (spiPpTrace s.regs.bankBase s.desc.wdiv s.buf b2 b1 b0 src n)
        (controlWord s.desc.wdiv .high .userMode) 0

/-- R120, R125: WREN is the 0x06 window and then the poll for WEL, both at `WDIV`. -/
def Obligations.WriteEnableRuns : Prop :=
  ∀ (s : State) (a0 a1 a2 : Word) (wel rest : List Word), Undisturbed s → CalledWith s .wren a0 a1 a2 →
    s.answers = wel ++ rest → PollAnswers 0x02 0x02 wel →
    ∃ u k t, exec .wren s = .next u ∧ Runs k u t ∧
      Finished s t (wrenTrace s.regs.bankBase s.desc.wdiv wel) (controlWord s.desc.wdiv .high .userMode) wel.length

/-- R121: WRSR is WREN, the 0x01 window with the status value, and the poll for WIP clear, at `WDIV`. -/
def Obligations.StatusWriteRuns : Prop :=
  ∀ (s : State) (v a1 a2 : Word) (wel wip rest : List Word), Undisturbed s → CalledWith s .wrsr v a1 a2 →
    s.answers = wel ++ wip ++ rest → PollAnswers 0x02 0x02 wel → PollAnswers 0x01 0x00 wip →
    ∃ u k t, exec .wrsr s = .next u ∧ Runs k u t ∧
      Finished s t (wrsrTrace s.regs.bankBase s.desc.wdiv (v.extractLsb' 0 8) wel wip)
        (controlWord s.desc.wdiv .high .userMode) (wel.length + wip.length)

/-- R122, R68: PP is WREN, the 0x02 window with the low 24 bits of the offset and the `n` bytes of the buffer from `src`,
and the poll for WIP clear; `n = 0` sends no data and still polls. -/
def Obligations.PageProgramRuns : Prop :=
  ∀ (s : State) (off src n : Word) (wel wip rest : List Word), Undisturbed s → CalledWith s .pp off src n →
    s.answers = wel ++ wip ++ rest → PollAnswers 0x02 0x02 wel → PollAnswers 0x01 0x00 wip →
    ∃ u k t, exec .pp s = .next u ∧ Runs k u t ∧
      Finished s t (ppTrace s.regs.bankBase s.desc.wdiv s.buf off src n wel wip)
        (controlWord s.desc.wdiv .high .userMode) (wel.length + wip.length)

/-- R123, R125: SE is WREN at `WDIV`, the 0xD8 window with the offset and the poll for WIP clear, both at `EDIV`. -/
def Obligations.SectorEraseRuns : Prop :=
  ∀ (s : State) (off a1 a2 : Word) (wel wip rest : List Word), Undisturbed s → CalledWith s .se off a1 a2 →
    s.answers = wel ++ wip ++ rest → PollAnswers 0x02 0x02 wel → PollAnswers 0x01 0x00 wip →
    ∃ u k t, exec .se s = .next u ∧ Runs k u t ∧
      Finished s t (seTrace s.regs.bankBase s.desc.wdiv s.desc.ediv off wel wip)
        (controlWord s.desc.ediv .high .userMode) (wel.length + wip.length)

/-- R124: RESET writes one control word, fast-read with chip-select high at `RDIV`, and settles. -/
def Obligations.ControllerResetRuns : Prop :=
  ∀ (s : State) (a0 a1 a2 : Word), Undisturbed s → CalledWith s .reset a0 a1 a2 →
    ∃ u k t, exec .reset s = .next u ∧ Runs k u t ∧
      Finished s t (resetTrace s.desc.rdiv) (controlWord s.desc.rdiv .high .fastRead) 0

/-- R111, R104, R105, R108, R109, R110: IDENT of a known part. It says what the sequencer does also where `CAL_SAT` is set
(R107), a run of which U6 has nothing concluded about the part (log 32). -/
def Obligations.IdentifyKnownPartRuns : Prop :=
  ∀ (s : State) (w : Word) (wel wip rest : List Word) (row : PartRow), Undisturbed s → Issued s .ident →
    s.answers = w :: (wel ++ wip ++ rest) → PollAnswers 0x02 0x02 wel → PollAnswers 0x01 0x00 wip →
    tableLookup s.par (w.extractLsb' 0 24) = some row →
    let cw := calibrate (effFreq s.par s.clkCfg) row.writeCeiling
    let ce := calibrate (effFreq s.par s.clkCfg) row.eraseCeiling
    let cr := calibrate (effFreq s.par s.clkCfg) row.readCeiling
    ∃ u k t, exec .ident s = .next u ∧ Runs k u t ∧ t.pos = [] ∧
      t.regs = { s.regs with rc := 0, done := true, busy := false } ∧
      t.desc = { id := w &&& 0x00FFFFFF#32, size := row.capacity, nsect := row.sectors, secsz := row.eraseSize,
                 wdiv := cw.1, ediv := ce.1, rdiv := cr.1, dummy := row.dummy, unknown := false,
                 calSat := cw.2 || ce.2 || cr.2, identified := true } ∧
      t.prot = s.prot.map (fun _ => false) ∧ t.ctrl = controlWord cr.1 .high .fastRead ∧
      t.answers = rest ∧ t.buf = s.buf ∧ t.par = s.par ∧ t.clkCfg = s.clkCfg ∧
      t.trace = s.trace ++ (rdidTrace s.regs.bankBase w ++ [.clkCfgRead s.clkCfg] ++
        wrsrTrace s.regs.bankBase cw.1 0x00 wel wip ++ resetTrace cr.1)

/-- R103, R111: IDENT of an unknown part sets `UNKNOWN`, clears the geometry and the codes, skips the clock read, the
calibration and the global unprotect, resets the controller and completes with code 0. -/
def Obligations.IdentifyUnknownPartRuns : Prop :=
  ∀ (s : State) (w : Word) (rest : List Word), Undisturbed s → Issued s .ident → s.answers = w :: rest →
    tableLookup s.par (w.extractLsb' 0 24) = none →
    ∃ u k t, exec .ident s = .next u ∧ Runs k u t ∧ t.pos = [] ∧
      t.regs = { s.regs with rc := 0, done := true, busy := false } ∧
      t.desc = { id := w &&& 0x00FFFFFF#32, size := 0, nsect := 0, secsz := 0, wdiv := 0, ediv := 0, rdiv := 0,
                 dummy := 0, unknown := true, calSat := false, identified := true } ∧
      t.prot = s.prot.map (fun _ => false) ∧ t.ctrl = 0x00000005#32 ∧ t.answers = rest ∧ t.buf = s.buf ∧
      t.trace = s.trace ++ (rdidTrace s.regs.bankBase w ++ resetTrace 0)

/-- R141, R163: an ERASE whose first sector is negative or beyond its last completes with code 1 before any port
action; the final controller reset is not performed. -/
def Obligations.EraseRejectsAnInvalidRange : Prop :=
  ∀ s : State, Undisturbed s → Issued s .erase → (s.work.a0.toInt < 0 ∨ s.work.a0.toInt > s.work.a1.toInt) →
    ∃ u k t, exec .erase s = .next u ∧ Runs k u t ∧ t.pos = [] ∧
      t.regs = { s.regs with rc := 1, done := true, busy := false, result0 := 0, result1 := 0 } ∧
      t.trace = s.trace ∧ t.ctrl = s.ctrl ∧ t.answers = s.answers ∧ t.desc = s.desc ∧ t.prot = s.prot ∧
      t.buf = s.buf

/-- R140, R142, R143, R144: ERASE of a range of existing sectors counts the protected ones into `RESULT0`, erases each
other one in increasing order, counts those into `RESULT1`, resets the controller and completes with code 0. -/
def Obligations.EraseRunsOverItsRange : Prop :=
  ∀ (s : State) (ps : List TwoPolls) (rest : List Word), Undisturbed s → Issued s .erase →
    0 ≤ s.work.a0.toInt → s.work.a0.toInt ≤ s.work.a1.toInt →
    s.work.a1.toNat < s.prot.length → s.work.a1.toNat < s.desc.nsect.toNat →
    let first := s.work.a0.toNat
    let m := s.work.a1.toNat + 1 - first
    let sectors := unprotected s.prot first m
    ps.length = sectors.length → (∀ p ∈ ps, p.Good) → s.answers = allAnswers ps ++ rest →
    ∃ u k t, exec .erase s = .next u ∧ Runs k u t ∧ t.pos = [] ∧
      t.regs = { s.regs with
        rc := 0, done := true, busy := false
        result0 := BitVec.ofNat 32 (m - sectors.length), result1 := BitVec.ofNat 32 sectors.length } ∧
      t.ctrl = controlWord s.desc.rdiv .high .fastRead ∧ t.answers = rest ∧ t.desc = s.desc ∧ t.prot = s.prot ∧
      t.buf = s.buf ∧
      t.trace = s.trace ++ (eraseTrace s.regs.bankBase s.desc sectors ps ++ resetTrace s.desc.rdiv)

/-- R184, R140 (log 12, log 13): before IDENT has found a part, `NSECT` and `SECSZ` are 0 and ERASE runs as its steps are
written, every sector at offset 0, over the flags the block has. -/
def Obligations.EraseWithoutAPartRunsAtOffsetZero : Prop :=
  ∀ (s : State) (ps : List TwoPolls) (rest : List Word), Undisturbed s → Issued s .erase →
    0 ≤ s.work.a0.toInt → s.work.a0.toInt ≤ s.work.a1.toInt →
    s.work.a1.toNat < s.prot.length → s.desc.nsect = 0 → s.desc.secsz = 0 →
    let sectors := unprotected s.prot s.work.a0.toNat (s.work.a1.toNat + 1 - s.work.a0.toNat)
    ps.length = sectors.length → (∀ p ∈ ps, p.Good) → s.answers = allAnswers ps ++ rest →
    ∃ u k t, exec .erase s = .next u ∧ Runs k u t ∧ t.pos = [] ∧ t.regs.rc = 0 ∧ t.regs.done = true ∧
      t.regs.busy = false ∧ t.regs.result1 = BitVec.ofNat 32 sectors.length ∧ t.answers = rest ∧
      t.trace = s.trace ++ ((ps.flatMap fun p => seTrace s.regs.bankBase s.desc.wdiv s.desc.ediv 0 p.wel p.wip) ++
        resetTrace s.desc.rdiv)

/-- R140 (U3): after its range check ERASE is refused where the last sector does not exist, the model's answer to
behaviour the rule leaves unspecified (log 13). -/
def Obligations.EraseBeyondTheSectorsIsRefused : Prop :=
  ∀ (s : State) (f : Frame) (fs : List Frame), s.pos = f :: fs → f.step = 2 →
    0 ≤ s.work.a0.toInt → s.work.a0.toInt ≤ s.work.a1.toInt →
    (exec .erase s = .refused .eraseBeyondSectors ↔
      (s.prot.length ≤ s.work.a1.toNat ∨ (s.desc.nsect ≠ 0 ∧ s.desc.nsect.toNat ≤ s.work.a1.toNat)))

/-- R145, R146: WBUF makes one page program for each chunk, in order, then resets the controller and completes with
code 0; a count of 0 makes none. -/
def Obligations.BufferedWriteRuns : Prop :=
  ∀ (s : State) (ps : List TwoPolls) (rest : List Word), Undisturbed s → Issued s .wbuf →
    let cs := chunks s.work.a2.toNat (s.work.a1 - s.regs.bankBase) s.work.a0 s.work.a2
    ps.length = cs.length → (∀ p ∈ ps, p.Good) → s.answers = allAnswers ps ++ rest →
    ∃ u k t, exec .wbuf s = .next u ∧ Runs k u t ∧ t.pos = [] ∧
      t.regs = { s.regs with rc := 0, done := true, busy := false } ∧
      t.ctrl = controlWord s.desc.rdiv .high .fastRead ∧ t.answers = rest ∧ t.desc = s.desc ∧ t.prot = s.prot ∧
      t.buf = s.buf ∧
      t.trace = s.trace ++ (wbufTrace s.regs.bankBase s.desc.wdiv s.buf cs ps ++ resetTrace s.desc.rdiv)

/-- R147, R43: RBUF makes `count / 4` word loads and `count mod 4` byte loads, stores each word low byte first, writes no
control word, and leaves buffer byte `dst + k` equal to the `k`-th byte read and every other byte as it was. -/
def Obligations.ReadPathRuns : Prop :=
  ∀ (s : State) (ws bs rest : List Word), Undisturbed s → Issued s .rbuf → Memory.wf s.buf = true →
    ws.length = s.work.a2.toNat / 4 → bs.length = s.work.a2.toNat % 4 → s.answers = ws ++ bs ++ rest →
    ∃ u k t, exec .rbuf s = .next u ∧ Runs k u t ∧ t.pos = [] ∧
      t.regs = { s.regs with rc := 0, done := true, busy := false } ∧
      t.ctrl = s.ctrl ∧ t.answers = rest ∧ t.desc = s.desc ∧ t.prot = s.prot ∧
      t.trace = s.trace ++ (rbufWords s.work.a1 s.work.a0 ws ++
        rbufBytes (s.work.a1 + BitVec.ofNat 32 (4 * ws.length)) (s.work.a0 + BitVec.ofNat 32 (4 * ws.length)) bs) ∧
      (∀ k < s.work.a2.toNat,
        Memory.read t.buf (bufAddr s.work.a0 k) = (bytesOf ws ++ bs.map answerByte).getD k 0) ∧
      (∀ a, (∀ k < s.work.a2.toNat, a ≠ bufAddr s.work.a0 k) → Memory.read t.buf a = Memory.read s.buf a)

/-- R147, R53: with the reference part in default mode and a source that is a multiple of 4, RBUF reproduces the part's
array byte for byte (93_implementation_defined.md K4). It is a claim about that part, which the model takes to behave as
ever also where `CAL_SAT` is set (U6; log 32). -/
def Obligations.ReadPathReproducesTheArray : Prop :=
  ∀ (s : State) (p : RefPart), s.host = [] → s.part = some p → Issued s .rbuf → Memory.wf s.buf = true →
    defaultMode s.ctrl = true → s.work.a1.toNat % 4 = 0 → p.size ≤ 2 ^ 32 →
    (s.work.a1 - s.regs.bankBase).toNat + s.work.a2.toNat ≤ p.size →
    ∃ u k t, exec .rbuf s = .next u ∧ Runs k u t ∧ t.pos = [] ∧ t.part = s.part ∧ t.ctrl = s.ctrl ∧
      t.answers = s.answers ∧
      ∀ j < s.work.a2.toNat,
        Memory.read t.buf (bufAddr s.work.a0 j) =
          Memory.read p.array ((s.work.a1 - s.regs.bankBase).toNat + j)

/-- R165, R83: while the answers never meet the poll's condition the poll reads on: `BUSY` stays 1, chip-select stays
low, and each step is one more read. -/
def Obligations.UnansweredPollRunsOn : Prop :=
  ∀ (s : State) (f : Frame) (fs : List Frame), Undisturbed s → s.pos = f :: fs → f.op = .spoll → f.step = 5 →
    windowOpen s.ctrl = true →
    (∀ w ∈ s.answers, answerByte w &&& f.a0.setWidth 8 ≠ f.a1.setWidth 8) →
    ∀ k ≤ s.answers.length, ∃ t, Runs k s t ∧ t.pos = s.pos ∧ t.regs = s.regs ∧ t.ctrl = s.ctrl ∧
      t.trace = s.trace ++ pollTrace s.regs.bankBase (s.answers.take k)

/-- R197: the delays of the port actions each procedure makes, from its step 1 to its end, sum to these. -/
def Obligations.DelaySums : Prop :=
  ∀ (s : State) (a0 a1 a2 : Word) (ws wel wip rest : List Word) (w : Word) (mask want : Byte) (div : DivCode)
    (b2 b1 b0 v : Byte), Undisturbed s →
    (CalledWith s .spiWren a0 a1 a2 → EndsWithDelay s .spiWren 210) ∧
    (CalledWith s (.spiWrsr v) a0 a1 a2 → EndsWithDelay s (.spiWrsr v) 220) ∧
    (CalledWith s (.spiSe b2 b1 b0) a0 a1 a2 → EndsWithDelay s (.spiSe b2 b1 b0) 240) ∧
    (CalledWith s (.spiPp b2 b1 b0) a0 a1 a2 → EndsWithDelay s (.spiPp b2 b1 b0) (240 + 10 * a1.toNat)) ∧
    (CalledWith s .spoll (mask.setWidth 32) (want.setWidth 32) (div.setWidth 32) → s.answers = ws ++ rest →
      PollAnswers mask want ws → EndsWithDelay s .spoll 210) ∧
    (CalledWith s .rdid a0 a1 a2 → s.answers = w :: rest → EndsWithDelay s .rdid 210) ∧
    (CalledWith s .reset a0 a1 a2 → EndsWithDelay s .reset 100) ∧
    (CalledWith s .wren a0 a1 a2 → s.answers = wel ++ rest → PollAnswers 0x02 0x02 wel →
      EndsWithDelay s .wren 420) ∧
    (s.answers = wel ++ wip ++ rest → PollAnswers 0x02 0x02 wel → PollAnswers 0x01 0x00 wip →
      (CalledWith s .wrsr a0 a1 a2 → EndsWithDelay s .wrsr 850) ∧
      (CalledWith s .se a0 a1 a2 → EndsWithDelay s .se 870) ∧
      (CalledWith s .pp a0 a1 a2 → EndsWithDelay s .pp (870 + 10 * a2.toNat)))

/-! ### Frames -/

/-- R81, R84, R10: the transactions RDID, SPI_WREN, SPOLL, SPI_WRSR, SPI_PP and SPI_SE change the control register, the
part, `w_b`, `w_word` and `w_div`, and nothing else but the position, the trace, the draws and, at the end of one that
is the command itself, the status; they store nothing in the buffer. -/
def Obligations.TransactionFrame : Prop :=
  ∀ (i : Instr) (s t : State), i.space = .wire → exec i s = .next t →
    StatusFrame s t ∧ t.desc = s.desc ∧ t.prot = s.prot ∧ t.clkCfg = s.clkCfg ∧ t.par = s.par ∧ t.host = s.host ∧
    t.hostData = s.hostData ∧ t.progress = s.progress ∧
    t.work = { s.work with b := t.work.b, word := t.work.word, div := t.work.div } ∧
    ∀ a, Memory.read t.buf a = Memory.read s.buf a

/-- R120 to R123, R126: WREN, WRSR, PP and SE themselves only call transactions: nothing changes but the position and, at
the end of one that is the command itself, the status. -/
def Obligations.PrimitiveFrame : Prop :=
  ∀ (i : Instr) (s t : State), (i = .wren ∨ i = .wrsr ∨ i = .pp ∨ i = .se) → exec i s = .next t →
    StatusFrame s t ∧ t = { s with pos := t.pos, regs := t.regs }

/-- R124: RESET changes the control register and what the part makes of chip-select going high; it draws and reads
nothing else, changes no register of the block but the status at the end of the command, and stores nothing. -/
def Obligations.ControllerResetFrame : Prop :=
  ∀ (s t : State), exec .reset s = .next t →
    StatusFrame s t ∧ t.desc = s.desc ∧ t.prot = s.prot ∧ t.work = s.work ∧ t.clkCfg = s.clkCfg ∧ t.par = s.par ∧
    t.host = s.host ∧ t.hostData = s.hostData ∧ t.progress = s.progress ∧ (s.part = none → t.part = none) ∧
    ∀ a, Memory.read t.buf a = Memory.read s.buf a

/-- R111: IDENT itself changes the descriptor, the protected flags (their number stays), `w_word`, the position, the
trace (by the clock read) and the status; `RESULT0` and `RESULT1` are not touched. -/
def Obligations.IdentifyFrame : Prop :=
  ∀ (s t : State), exec .ident s = .next t →
    StatusFrame s t ∧ t.prot.length = s.prot.length ∧ t.work = { s.work with word := t.work.word } ∧
    t.ctrl = s.ctrl ∧ t.part = s.part ∧ t.answers = s.answers ∧ t.draws = s.draws ∧ t.clkCfg = s.clkCfg ∧
    t.par = s.par ∧ t.host = s.host ∧ t.hostData = s.hostData ∧ t.timer = s.timer ∧ t.progress = s.progress ∧
    ∀ a, Memory.read t.buf a = Memory.read s.buf a

/-- R140, R15, R16: ERASE itself changes `RESULT0`, `RESULT1`, `w_i`, the position, `PROGRESS` and the status, and makes
no port action. -/
def Obligations.EraseFrame : Prop :=
  ∀ (s t : State), exec .erase s = .next t →
    t.regs = { s.regs with
      result0 := t.regs.result0, result1 := t.regs.result1, rc := t.regs.rc, done := t.regs.done,
      busy := t.regs.busy } ∧
    (t.regs.busy = s.regs.busy ∧ t.regs.done = s.regs.done ∧ t.regs.rc = s.regs.rc ∨
      t.regs.busy = false ∧ t.regs.done = true ∧ (t.regs.rc = 0 ∨ t.regs.rc = 1)) ∧
    t.work = { s.work with i := t.work.i } ∧
    t.desc = s.desc ∧ t.prot = s.prot ∧ t.ctrl = s.ctrl ∧ t.part = s.part ∧ t.answers = s.answers ∧
    t.draws = s.draws ∧ t.trace = s.trace ∧ t.timer = s.timer ∧ t.clkCfg = s.clkCfg ∧ t.par = s.par ∧
    t.host = s.host ∧ t.hostData = s.hostData ∧ ∀ a, Memory.read t.buf a = Memory.read s.buf a

/-- R145: WBUF itself changes `w_src`, `w_off`, `w_cnt`, `w_n`, the position and the status, and makes no port action. -/
def Obligations.BufferedWriteFrame : Prop :=
  ∀ (s t : State), exec .wbuf s = .next t →
    StatusFrame s t ∧
    t.work = { s.work with src := t.work.src, off := t.work.off, cnt := t.work.cnt, n := t.work.n } ∧
    t.desc = s.desc ∧ t.prot = s.prot ∧ t.ctrl = s.ctrl ∧ t.part = s.part ∧ t.answers = s.answers ∧
    t.draws = s.draws ∧ t.trace = s.trace ∧ t.timer = s.timer ∧ t.progress = s.progress ∧ t.clkCfg = s.clkCfg ∧
    t.par = s.par ∧ t.host = s.host ∧ t.hostData = s.hostData ∧
    ∀ a, Memory.read t.buf a = Memory.read s.buf a

/-- R147, R47: RBUF changes `w_dst`, `w_src`, `w_cnt`, `w_word`, `w_b`, the position, the trace, the draws and the status,
and in the buffer the one byte its step stores to, at the address `rbufStoreAddr` gives it. The reference part it leaves,
but for a read with the window open, which shifts four bytes or one out of it (log 16) and leaves its array. -/
def Obligations.ReadPathFrame : Prop :=
  ∀ (s t : State), exec .rbuf s = .next t →
    StatusFrame s t ∧
    t.work = { s.work with
      dst := t.work.dst, src := t.work.src, cnt := t.work.cnt, word := t.work.word, b := t.work.b } ∧
    t.desc = s.desc ∧ t.prot = s.prot ∧ t.ctrl = s.ctrl ∧ t.timer = s.timer ∧
    t.progress = s.progress ∧ t.clkCfg = s.clkCfg ∧ t.par = s.par ∧ t.host = s.host ∧ t.hostData = s.hostData ∧
    (windowOpen s.ctrl = false → t.part = s.part) ∧ (s.part = none → t.part = none) ∧
    t.part.map RefPart.array = s.part.map RefPart.array ∧
    (windowOpen s.ctrl = true → s.stepNo = 3 → t.part = s.part.map fun p => p.shiftOut 4) ∧
    (windowOpen s.ctrl = true → s.stepNo = 10 → t.part = s.part.map fun p => p.shiftOut 1) ∧
    (s.stepNo ≠ 3 → s.stepNo ≠ 10 → t.part = s.part) ∧
    (∀ d, rbufStoreAddr s = some d → ∀ a, a ≠ d.toNat → Memory.read t.buf a = Memory.read s.buf a) ∧
    (rbufStoreAddr s = none → ∀ a, Memory.read t.buf a = Memory.read s.buf a)

/-! ### Whole-machine rules -/

/-- R15 to R21, R33: a step changes the descriptor only as a step of IDENT or on the reset input, and `RESULT0` or
`RESULT1` only as a step of ERASE or on the reset input. -/
def Obligations.DescriptorAndResultsHaveOneWriter : Prop :=
  ∀ s t : State, step s = .next t →
    (t.desc ≠ s.desc → (∃ f fs, s.pos = f :: fs ∧ f.op = .ident) ∨ (∃ rest, s.host = .hwReset :: rest)) ∧
    (t.regs.result0 ≠ s.regs.result0 ∨ t.regs.result1 ≠ s.regs.result1 →
      (∃ f fs, s.pos = f :: fs ∧ f.op = .erase) ∨ (∃ rest, s.host = .hwReset :: rest))

/-- R28, R40: `CTRL` changes only by a control write of the sequencer, which the trace shows; the parameters never
change. -/
def Obligations.ControlRegisterHasOneWriter : Prop :=
  ∀ s t : State, step s = .next t →
    t.par = s.par ∧ (t.ctrl ≠ s.ctrl → t.trace = s.trace ++ [.ctrlWrite t.ctrl])

/-- R5, R50: a step makes at most one port action, after all those before it. -/
def Obligations.StepMakesAtMostOnePortAction : Prop :=
  ∀ s t : State, step s = .next t → t.trace = s.trace ∨ ∃ e, t.trace = s.trace ++ [e]

/-- R143, R16: after each sector erased `RESULT1` goes up by one and `PROGRESS` pulses; the pulse is over at the
sequencer's next step. -/
def Obligations.ProgressPulsesForEachSector : Prop :=
  (∀ (s : State) (f : Frame) (fs : List Frame), s.pos = f :: fs → f.step = 6 →
    ∃ t, exec .erase s = .next t ∧ t.regs.result1 = s.regs.result1 + 1 ∧ t.progress = true ∧ t.trace = s.trace) ∧
  (∀ (s t : State) (f : Frame) (fs : List Frame), s.host = [] → s.pos = f :: fs → step s = .next t →
    t.progress = true → f.op = .erase ∧ f.step = 6 ∧ t.regs.result1 = s.regs.result1 + 1)

/-! ### Invariants -/

/-- The invariant and the window discipline hold after reset; the controller is taken to be in its default mode then
(R182, the decision D29; log 9). -/
def Obligations.InvariantsHoldAtReset : Prop :=
  State.reset.Inv ∧ State.reset.Disciplined ∧ defaultMode State.reset.ctrl = true

/-- R11, R17, R24, R25, R28, R29, R162: every step keeps the invariant, whatever the host and the part do. -/
def Obligations.StepKeepsTheInvariant : Prop :=
  ∀ s t : State, s.Inv → step s = .next t → t.Inv

/-- R25: the position is a stack of at most five frames; here at most four, since an operation and its transaction
share a frame (log 1). -/
def Obligations.PositionDepthIsBounded : Prop := ∀ s : State, s.Inv → s.pos.length ≤ 4

/-- R160, R165, U3: under the invariant no step faults, and with no host action to come every step answers a next state,
but for ERASE at its range check of a range beyond the sectors, whose refusal is the model's choice (log 13). -/
def Obligations.SequencerAlwaysHasANextStep : Prop :=
  ∀ s : State, s.Inv →
    (∀ e, step s ≠ .fault e) ∧
    (s.host = [] → (∃ t, step s = .next t) ∨
      (step s = .refused .eraseBeyondSectors ∧ ∃ f fs, s.pos = f :: fs ∧ f.op = .erase ∧ f.step = 2))

/-- R67, R86, R87, R88: as long as the reset input is not asserted, every step keeps the whole trace under the
discipline: no window overlaps another, data pass only in an open window, the first byte of each is one of the six
opcodes, control words are the three of their divisor code, and the settle delays follow every control write and every
byte sent. -/
def Obligations.StepKeepsTheWindowDiscipline : Prop :=
  ∀ s t : State, s.Inv → noHwReset s.host = true → s.Disciplined → step s = .next t →
    noHwReset t.host = true ∧ t.Disciplined

/-! ### The reference part -/

/-- K4: 0x06 sets WEL when chip-select goes high; with WEL clear a write command is ignored; a status write takes the
protection bits; a page program ands its bytes into the array, byte `k` at the address whose low 8 bits have `k` added
modulo 256 and nowhere else; a sector erase leaves 0xFF in the sector and nothing else changed. Chip-select going low
starts a new command, and a control write that leaves it low starts none. The array's end and the protection bits are
the model's choice (log 5). -/
def Obligations.ReferencePartCommands : Prop :=
  ∀ (p : RefPart) (n : Nat),
    ((p.select.receive 0x06).deselect n).sr = p.sr ||| 0x02#8 ∧
    ((p.select.receive 0x06).deselect n).array = p.array ∧
    (∀ (op : Byte) (bs : List Byte), op ≠ 0x06 → p.sr &&& 0x02#8 = 0 →
      (bs.foldl RefPart.receive (p.select.receive op)).deselect n = p.select) ∧
    (∀ v : Byte, p.sr &&& 0x02#8 ≠ 0 → n ≠ 0 →
      let q := ((p.select.receive 0x01).receive v).deselect n
      q.sr = (v &&& 0xFC#8) ||| (p.sr &&& 0x03#8) ||| 0x01#8 ∧ q.array = p.array ∧ q.busyReads = n) ∧
    (∀ (b2 b1 b0 : Byte) (data : List Byte), p.sr &&& 0x02#8 ≠ 0 → Memory.wf p.array = true →
      let a := (wireOffset b2 b1 b0).toNat
      let q := (([b2, b1, b0] ++ data).foldl RefPart.receive (p.select.receive 0x02)).deselect n
      q.busyReads = n ∧ (n ≠ 0 → q.sr = p.sr ||| 0x01#8) ∧
      ∀ loc, Memory.read q.array loc =
        (if loc < p.size then
          (data.zipIdx.filter fun dk => a / 256 * 256 + (a % 256 + dk.2) % 256 = loc).foldl
            (fun byte dk => byte &&& dk.1) (Memory.read p.array loc)
        else Memory.read p.array loc)) ∧
    (∀ b2 b1 b0 : Byte, p.sr &&& 0x02#8 ≠ 0 → 0 < p.sectorSize →
      let q := ([b2, b1, b0].foldl RefPart.receive (p.select.receive 0xD8)).deselect n
      q.busyReads = n ∧ (n ≠ 0 → q.sr = p.sr ||| 0x01#8) ∧
      ∀ a, Memory.read q.array a =
        (if a / p.sectorSize = (wireOffset b2 b1 b0).toNat / p.sectorSize then 0xFF#8 else Memory.read p.array a)) ∧
    (∀ (s : State) (w : Word), s.part = some p → ctrlSelect w = .low →
      (ctrlSelect s.ctrl = .high → (s.ctrlWrite w).part = some p.select) ∧
      (ctrlSelect s.ctrl = .low → (s.ctrlWrite w).part = some p))
end

