-- ==== Sys2Proof/Laws/Memory.lean ====
section
/-! SUPPORT. The laws of the byte memory: a read after a write, and that every operation keeps the canonical form. -/

namespace Sys2Proof.Machine

/-- A stored byte reads back. -/
@[simp] theorem Memory.read_write_same (m : Memory) (a : Nat) (b : Byte) (h : Memory.wf m = true) :
    Memory.read (Memory.write m a b) a = b := by
  suffices H : ∀ lo, Memory.wfFrom lo m = true → Memory.read (Memory.write m a b) a = b from H 0 h
  clear h
  induction m with
  | nil =>
    intro lo _
    by_cases hb : b = Memory.blank <;> simp [Memory.write, Memory.read, hb]
  | cons c m ih =>
    obtain ⟨k, v⟩ := c
    intro lo h
    simp only [Memory.wfFrom, Bool.and_eq_true, decide_eq_true_eq] at h
    have absent : ∀ (m : Memory) (l : Nat), a < l → Memory.wfFrom l m = true → Memory.read m a = Memory.blank := by
      intro m
      induction m with
      | nil => intros; rfl
      | cons c m ihm =>
        obtain ⟨k', v'⟩ := c
        intro l hl hw
        simp only [Memory.wfFrom, Bool.and_eq_true, decide_eq_true_eq] at hw
        have hne : k' ≠ a := by omega
        simp [Memory.read, hne, ihm (k' + 1) (by omega) hw.2]
    simp only [Memory.write]
    split
    · next hlt => simp [Memory.read, Nat.ne_of_lt hlt, ih _ h.2]
    · split
      · next heq =>
        subst heq
        split
        · next hb => rw [absent m (k + 1) (by omega) h.2, hb]
        · simp [Memory.read]
      · split
        · next hb =>
          have hne : k ≠ a := by omega
          simp [Memory.read, hne, absent m (k + 1) (by omega) h.2, hb]
        · simp [Memory.read]

/-- A store leaves every other address alone. -/
@[simp] theorem Memory.read_write_other (m : Memory) (a a' : Nat) (b : Byte) (h : a' ≠ a) :
    Memory.read (Memory.write m a b) a' = Memory.read m a' := by
  induction m with
  | nil =>
    have h' : a ≠ a' := fun e => h e.symm
    by_cases hb : b = Memory.blank <;> simp [Memory.write, Memory.read, hb, h']
  | cons c m ih =>
    obtain ⟨k, v⟩ := c
    have h' : a ≠ a' := fun e => h e.symm
    simp only [Memory.write]
    split
    · simp [Memory.read, ih]
    · split
      · next heq =>
        subst heq
        split <;> simp [Memory.read, h']
      · split <;> simp [Memory.read, h']

/-- A larger lower bound is a stronger claim. -/
theorem Memory.wfFrom_mono {lo lo' : Nat} {m : Memory} (h : Memory.wfFrom lo m = true) (hle : lo' ≤ lo) :
    Memory.wfFrom lo' m = true := by
  cases m with
  | nil => rfl
  | cons c m =>
    obtain ⟨k, v⟩ := c
    simp only [Memory.wfFrom, Bool.and_eq_true, decide_eq_true_eq] at h ⊢
    exact ⟨⟨by omega, h.1.2⟩, h.2⟩

/-- A store keeps the canonical form. -/
theorem Memory.wfFrom_write {lo : Nat} {m : Memory} (a : Nat) (b : Byte) (h : Memory.wfFrom lo m = true)
    (ha : lo ≤ a) : Memory.wfFrom lo (Memory.write m a b) = true := by
  induction m generalizing lo with
  | nil =>
    by_cases hb : b = Memory.blank <;> simp [Memory.write, Memory.wfFrom, hb, ha]
  | cons c m ih =>
    obtain ⟨k, v⟩ := c
    simp only [Memory.wfFrom, Bool.and_eq_true, decide_eq_true_eq] at h
    simp only [Memory.write]
    split
    · simp only [Memory.wfFrom, Bool.and_eq_true, decide_eq_true_eq]
      exact ⟨h.1, ih h.2 (by omega)⟩
    · split
      · next heq =>
        subst heq
        split
        · exact Memory.wfFrom_mono h.2 (by omega)
        · next hb => simp [Memory.wfFrom, hb, h.2]; omega
      · split
        · simp [Memory.wfFrom, h.1.1, h.1.2, h.2]
        · next hb =>
          simp [Memory.wfFrom, hb, h.1.2, h.2]
          omega

theorem Memory.wf_write {m : Memory} (a : Nat) (b : Byte) (h : Memory.wf m = true) :
    Memory.wf (Memory.write m a b) = true :=
  Memory.wfFrom_write a b h (Nat.zero_le a)

/-- The memory of the reset state has the form. -/
theorem reset_buf_wf : Memory.wf State.reset.buf = true := rfl

/-- Leaving cells out keeps the canonical form. -/
theorem Memory.wf_clear {m : Memory} (l r : Nat) (h : Memory.wf m = true) : Memory.wf (Memory.clear m l r) = true := by
  suffices H : ∀ (m : Memory) (lo : Nat), Memory.wfFrom lo m = true → Memory.wfFrom lo (Memory.clear m l r) = true from
    H m 0 h
  intro m
  induction m with
  | nil => intros; rfl
  | cons c m ih =>
    obtain ⟨k, v⟩ := c
    intro lo h
    simp only [Memory.wfFrom, Bool.and_eq_true, decide_eq_true_eq] at h
    have rest := ih (k + 1) h.2
    unfold Memory.clear at rest ⊢
    rw [List.filter_cons]
    split
    · simp [Memory.wfFrom, h.1.1, h.1.2, rest]
    · exact Memory.wfFrom_mono rest (by omega)

/-- A cleared byte is blank. -/
theorem Memory.read_clear_inside (m : Memory) (l r a : Nat) (h : l ≤ a ∧ a < r) :
    Memory.read (Memory.clear m l r) a = Memory.blank := by
  induction m with
  | nil => rfl
  | cons c m ih =>
    obtain ⟨k, v⟩ := c
    unfold Memory.clear at ih ⊢
    rw [List.filter_cons]
    split
    · next hk =>
      simp only [Bool.or_eq_true, decide_eq_true_eq] at hk
      have hne : k ≠ a := by omega
      simp [Memory.read, hne, ih]
    · exact ih

/-- A byte outside the cleared range stays. -/
theorem Memory.read_clear_outside (m : Memory) (l r a : Nat) (h : a < l ∨ r ≤ a) :
    Memory.read (Memory.clear m l r) a = Memory.read m a := by
  induction m with
  | nil => rfl
  | cons c m ih =>
    obtain ⟨k, v⟩ := c
    unfold Memory.clear at ih ⊢
    rw [List.filter_cons]
    split
    · simp only [Memory.read, ih]
    · next hk =>
      simp only [Bool.or_eq_true, decide_eq_true_eq, not_or, Nat.not_lt, Nat.not_le] at hk
      have hne : k ≠ a := by omega
      simp [Memory.read, hne, ih]

/-- The page program of the reference part keeps the canonical form of its array. -/
theorem programBytes_wf (size : Nat) (a : BitVec 24) (k : Nat) (ds : List Byte) (m : Memory)
    (h : Memory.wf m = true) : Memory.wf (programBytes size a k ds m) = true := by
  induction ds generalizing k m with
  | nil => exact h
  | cons d ds ih =>
    simp only [programBytes]
    split
    · exact ih _ _ (Memory.wf_write _ _ h)
    · exact ih _ _ h

@[simp] theorem RefPart.busyFor_array (p : RefPart) (n : Nat) : (p.busyFor n).array = p.array := by
  unfold RefPart.busyFor; split <;> rfl

@[simp] theorem RefPart.afterOut_array (p : RefPart) : p.afterOut.array = p.array := by
  unfold RefPart.afterOut; (repeat' split) <;> simp

/-- Shifting bytes out of the part leaves its array. -/
@[simp] theorem RefPart.shiftOut_array (p : RefPart) (n : Nat) : (p.shiftOut n).array = p.array := by
  induction n generalizing p with
  | zero => rfl
  | succ n ih => simp [RefPart.shiftOut, ih]

/-- The end of a command of the reference part keeps the canonical form of its array. -/
theorem RefPart.deselect_wf (p : RefPart) (n : Nat) (h : Memory.wf p.array = true) :
    Memory.wf (p.deselect n).array = true := by
  unfold RefPart.deselect
  (repeat' split) <;> simp [h, programBytes_wf, Memory.wf_clear]

end Sys2Proof.Machine
end

