-- ==== Sys2Proof/Laws/State.lean ====
section
/-! SUPPORT. What each update of the state leaves, field by field, and where the position stands after it. -/

namespace Sys2Proof.Machine

/-! #### `setFrame` changes the position only -/

@[simp] theorem State.setFrame_regs (s : State) (f : Frame) : (s.setFrame f).regs = s.regs := by unfold State.setFrame; split <;> rfl
@[simp] theorem State.setFrame_desc (s : State) (f : Frame) : (s.setFrame f).desc = s.desc := by unfold State.setFrame; split <;> rfl
@[simp] theorem State.setFrame_prot (s : State) (f : Frame) : (s.setFrame f).prot = s.prot := by unfold State.setFrame; split <;> rfl
@[simp] theorem State.setFrame_work (s : State) (f : Frame) : (s.setFrame f).work = s.work := by unfold State.setFrame; split <;> rfl
@[simp] theorem State.setFrame_timer (s : State) (f : Frame) : (s.setFrame f).timer = s.timer := by unfold State.setFrame; split <;> rfl
@[simp] theorem State.setFrame_progress (s : State) (f : Frame) : (s.setFrame f).progress = s.progress := by unfold State.setFrame; split <;> rfl
@[simp] theorem State.setFrame_ctrl (s : State) (f : Frame) : (s.setFrame f).ctrl = s.ctrl := by unfold State.setFrame; split <;> rfl
@[simp] theorem State.setFrame_clkCfg (s : State) (f : Frame) : (s.setFrame f).clkCfg = s.clkCfg := by unfold State.setFrame; split <;> rfl
@[simp] theorem State.setFrame_buf (s : State) (f : Frame) : (s.setFrame f).buf = s.buf := by unfold State.setFrame; split <;> rfl
@[simp] theorem State.setFrame_part (s : State) (f : Frame) : (s.setFrame f).part = s.part := by unfold State.setFrame; split <;> rfl
@[simp] theorem State.setFrame_par (s : State) (f : Frame) : (s.setFrame f).par = s.par := by unfold State.setFrame; split <;> rfl
@[simp] theorem State.setFrame_answers (s : State) (f : Frame) : (s.setFrame f).answers = s.answers := by unfold State.setFrame; split <;> rfl
@[simp] theorem State.setFrame_draws (s : State) (f : Frame) : (s.setFrame f).draws = s.draws := by unfold State.setFrame; split <;> rfl
@[simp] theorem State.setFrame_host (s : State) (f : Frame) : (s.setFrame f).host = s.host := by unfold State.setFrame; split <;> rfl
@[simp] theorem State.setFrame_hostData (s : State) (f : Frame) : (s.setFrame f).hostData = s.hostData := by unfold State.setFrame; split <;> rfl
@[simp] theorem State.setFrame_trace (s : State) (f : Frame) : (s.setFrame f).trace = s.trace := by unfold State.setFrame; split <;> rfl

/-! #### `goto` changes the position only -/

@[simp] theorem State.goto_regs (s : State) (n : Nat) : (s.goto n).regs = s.regs := by simp [State.goto]
@[simp] theorem State.goto_desc (s : State) (n : Nat) : (s.goto n).desc = s.desc := by simp [State.goto]
@[simp] theorem State.goto_prot (s : State) (n : Nat) : (s.goto n).prot = s.prot := by simp [State.goto]
@[simp] theorem State.goto_work (s : State) (n : Nat) : (s.goto n).work = s.work := by simp [State.goto]
@[simp] theorem State.goto_timer (s : State) (n : Nat) : (s.goto n).timer = s.timer := by simp [State.goto]
@[simp] theorem State.goto_progress (s : State) (n : Nat) : (s.goto n).progress = s.progress := by simp [State.goto]
@[simp] theorem State.goto_ctrl (s : State) (n : Nat) : (s.goto n).ctrl = s.ctrl := by simp [State.goto]
@[simp] theorem State.goto_clkCfg (s : State) (n : Nat) : (s.goto n).clkCfg = s.clkCfg := by simp [State.goto]
@[simp] theorem State.goto_buf (s : State) (n : Nat) : (s.goto n).buf = s.buf := by simp [State.goto]
@[simp] theorem State.goto_part (s : State) (n : Nat) : (s.goto n).part = s.part := by simp [State.goto]
@[simp] theorem State.goto_par (s : State) (n : Nat) : (s.goto n).par = s.par := by simp [State.goto]
@[simp] theorem State.goto_answers (s : State) (n : Nat) : (s.goto n).answers = s.answers := by simp [State.goto]
@[simp] theorem State.goto_draws (s : State) (n : Nat) : (s.goto n).draws = s.draws := by simp [State.goto]
@[simp] theorem State.goto_host (s : State) (n : Nat) : (s.goto n).host = s.host := by simp [State.goto]
@[simp] theorem State.goto_hostData (s : State) (n : Nat) : (s.goto n).hostData = s.hostData := by simp [State.goto]
@[simp] theorem State.goto_trace (s : State) (n : Nat) : (s.goto n).trace = s.trace := by simp [State.goto]

/-! #### `gotoWith` changes the position only -/

@[simp] theorem State.gotoWith_regs (s : State) (k n : Nat) : (s.gotoWith k n).regs = s.regs := by simp [State.gotoWith]
@[simp] theorem State.gotoWith_desc (s : State) (k n : Nat) : (s.gotoWith k n).desc = s.desc := by simp [State.gotoWith]
@[simp] theorem State.gotoWith_prot (s : State) (k n : Nat) : (s.gotoWith k n).prot = s.prot := by simp [State.gotoWith]
@[simp] theorem State.gotoWith_work (s : State) (k n : Nat) : (s.gotoWith k n).work = s.work := by simp [State.gotoWith]
@[simp] theorem State.gotoWith_timer (s : State) (k n : Nat) : (s.gotoWith k n).timer = s.timer := by simp [State.gotoWith]
@[simp] theorem State.gotoWith_progress (s : State) (k n : Nat) : (s.gotoWith k n).progress = s.progress := by simp [State.gotoWith]
@[simp] theorem State.gotoWith_ctrl (s : State) (k n : Nat) : (s.gotoWith k n).ctrl = s.ctrl := by simp [State.gotoWith]
@[simp] theorem State.gotoWith_clkCfg (s : State) (k n : Nat) : (s.gotoWith k n).clkCfg = s.clkCfg := by simp [State.gotoWith]
@[simp] theorem State.gotoWith_buf (s : State) (k n : Nat) : (s.gotoWith k n).buf = s.buf := by simp [State.gotoWith]
@[simp] theorem State.gotoWith_part (s : State) (k n : Nat) : (s.gotoWith k n).part = s.part := by simp [State.gotoWith]
@[simp] theorem State.gotoWith_par (s : State) (k n : Nat) : (s.gotoWith k n).par = s.par := by simp [State.gotoWith]
@[simp] theorem State.gotoWith_answers (s : State) (k n : Nat) : (s.gotoWith k n).answers = s.answers := by simp [State.gotoWith]
@[simp] theorem State.gotoWith_draws (s : State) (k n : Nat) : (s.gotoWith k n).draws = s.draws := by simp [State.gotoWith]
@[simp] theorem State.gotoWith_host (s : State) (k n : Nat) : (s.gotoWith k n).host = s.host := by simp [State.gotoWith]
@[simp] theorem State.gotoWith_hostData (s : State) (k n : Nat) : (s.gotoWith k n).hostData = s.hostData := by simp [State.gotoWith]
@[simp] theorem State.gotoWith_trace (s : State) (k n : Nat) : (s.gotoWith k n).trace = s.trace := by simp [State.gotoWith]

/-! #### `call` pushes a frame -/

@[simp] theorem State.call_regs (s : State) (op : Instr) (a0 a1 a2 : Word) : (s.call op a0 a1 a2).regs = s.regs := rfl
@[simp] theorem State.call_desc (s : State) (op : Instr) (a0 a1 a2 : Word) : (s.call op a0 a1 a2).desc = s.desc := rfl
@[simp] theorem State.call_prot (s : State) (op : Instr) (a0 a1 a2 : Word) : (s.call op a0 a1 a2).prot = s.prot := rfl
@[simp] theorem State.call_work (s : State) (op : Instr) (a0 a1 a2 : Word) : (s.call op a0 a1 a2).work = s.work := rfl
@[simp] theorem State.call_timer (s : State) (op : Instr) (a0 a1 a2 : Word) : (s.call op a0 a1 a2).timer = s.timer := rfl
@[simp] theorem State.call_progress (s : State) (op : Instr) (a0 a1 a2 : Word) : (s.call op a0 a1 a2).progress = s.progress := rfl
@[simp] theorem State.call_ctrl (s : State) (op : Instr) (a0 a1 a2 : Word) : (s.call op a0 a1 a2).ctrl = s.ctrl := rfl
@[simp] theorem State.call_clkCfg (s : State) (op : Instr) (a0 a1 a2 : Word) : (s.call op a0 a1 a2).clkCfg = s.clkCfg := rfl
@[simp] theorem State.call_buf (s : State) (op : Instr) (a0 a1 a2 : Word) : (s.call op a0 a1 a2).buf = s.buf := rfl
@[simp] theorem State.call_part (s : State) (op : Instr) (a0 a1 a2 : Word) : (s.call op a0 a1 a2).part = s.part := rfl
@[simp] theorem State.call_par (s : State) (op : Instr) (a0 a1 a2 : Word) : (s.call op a0 a1 a2).par = s.par := rfl
@[simp] theorem State.call_answers (s : State) (op : Instr) (a0 a1 a2 : Word) : (s.call op a0 a1 a2).answers = s.answers := rfl
@[simp] theorem State.call_draws (s : State) (op : Instr) (a0 a1 a2 : Word) : (s.call op a0 a1 a2).draws = s.draws := rfl
@[simp] theorem State.call_host (s : State) (op : Instr) (a0 a1 a2 : Word) : (s.call op a0 a1 a2).host = s.host := rfl
@[simp] theorem State.call_hostData (s : State) (op : Instr) (a0 a1 a2 : Word) : (s.call op a0 a1 a2).hostData = s.hostData := rfl
@[simp] theorem State.call_trace (s : State) (op : Instr) (a0 a1 a2 : Word) : (s.call op a0 a1 a2).trace = s.trace := rfl

@[simp] theorem State.call_pos (s : State) (op : Instr) (a0 a1 a2 : Word) : (s.call op a0 a1 a2).pos = Frame.start op a0 a1 a2 :: s.pos := rfl
/-! #### `complete` ends a command -/

@[simp] theorem State.complete_desc (s : State) (rc : BitVec 2) : (s.complete rc).desc = s.desc := rfl
@[simp] theorem State.complete_prot (s : State) (rc : BitVec 2) : (s.complete rc).prot = s.prot := rfl
@[simp] theorem State.complete_work (s : State) (rc : BitVec 2) : (s.complete rc).work = s.work := rfl
@[simp] theorem State.complete_timer (s : State) (rc : BitVec 2) : (s.complete rc).timer = s.timer := rfl
@[simp] theorem State.complete_progress (s : State) (rc : BitVec 2) : (s.complete rc).progress = s.progress := rfl
@[simp] theorem State.complete_ctrl (s : State) (rc : BitVec 2) : (s.complete rc).ctrl = s.ctrl := rfl
@[simp] theorem State.complete_clkCfg (s : State) (rc : BitVec 2) : (s.complete rc).clkCfg = s.clkCfg := rfl
@[simp] theorem State.complete_buf (s : State) (rc : BitVec 2) : (s.complete rc).buf = s.buf := rfl
@[simp] theorem State.complete_part (s : State) (rc : BitVec 2) : (s.complete rc).part = s.part := rfl
@[simp] theorem State.complete_par (s : State) (rc : BitVec 2) : (s.complete rc).par = s.par := rfl
@[simp] theorem State.complete_answers (s : State) (rc : BitVec 2) : (s.complete rc).answers = s.answers := rfl
@[simp] theorem State.complete_draws (s : State) (rc : BitVec 2) : (s.complete rc).draws = s.draws := rfl
@[simp] theorem State.complete_host (s : State) (rc : BitVec 2) : (s.complete rc).host = s.host := rfl
@[simp] theorem State.complete_hostData (s : State) (rc : BitVec 2) : (s.complete rc).hostData = s.hostData := rfl
@[simp] theorem State.complete_trace (s : State) (rc : BitVec 2) : (s.complete rc).trace = s.trace := rfl

@[simp] theorem State.complete_pos (s : State) (rc : BitVec 2) : (s.complete rc).pos = [] := rfl
@[simp] theorem State.complete_regs (s : State) (rc : BitVec 2) : (s.complete rc).regs = { s.regs with rc := rc, done := true, busy := false } := rfl
/-! #### `finish` returns or completes -/

@[simp] theorem State.finish_desc (s : State) : (s.finish).desc = s.desc := by unfold State.finish; split <;> rfl
@[simp] theorem State.finish_prot (s : State) : (s.finish).prot = s.prot := by unfold State.finish; split <;> rfl
@[simp] theorem State.finish_work (s : State) : (s.finish).work = s.work := by unfold State.finish; split <;> rfl
@[simp] theorem State.finish_timer (s : State) : (s.finish).timer = s.timer := by unfold State.finish; split <;> rfl
@[simp] theorem State.finish_progress (s : State) : (s.finish).progress = s.progress := by unfold State.finish; split <;> rfl
@[simp] theorem State.finish_ctrl (s : State) : (s.finish).ctrl = s.ctrl := by unfold State.finish; split <;> rfl
@[simp] theorem State.finish_clkCfg (s : State) : (s.finish).clkCfg = s.clkCfg := by unfold State.finish; split <;> rfl
@[simp] theorem State.finish_buf (s : State) : (s.finish).buf = s.buf := by unfold State.finish; split <;> rfl
@[simp] theorem State.finish_part (s : State) : (s.finish).part = s.part := by unfold State.finish; split <;> rfl
@[simp] theorem State.finish_par (s : State) : (s.finish).par = s.par := by unfold State.finish; split <;> rfl
@[simp] theorem State.finish_answers (s : State) : (s.finish).answers = s.answers := by unfold State.finish; split <;> rfl
@[simp] theorem State.finish_draws (s : State) : (s.finish).draws = s.draws := by unfold State.finish; split <;> rfl
@[simp] theorem State.finish_host (s : State) : (s.finish).host = s.host := by unfold State.finish; split <;> rfl
@[simp] theorem State.finish_hostData (s : State) : (s.finish).hostData = s.hostData := by unfold State.finish; split <;> rfl
@[simp] theorem State.finish_trace (s : State) : (s.finish).trace = s.trace := by unfold State.finish; split <;> rfl

/-! #### `elapse` stops the timer and ends a pulse -/

@[simp] theorem State.elapse_regs (s : State) : (s.elapse).regs = s.regs := rfl
@[simp] theorem State.elapse_desc (s : State) : (s.elapse).desc = s.desc := rfl
@[simp] theorem State.elapse_prot (s : State) : (s.elapse).prot = s.prot := rfl
@[simp] theorem State.elapse_pos (s : State) : (s.elapse).pos = s.pos := rfl
@[simp] theorem State.elapse_work (s : State) : (s.elapse).work = s.work := rfl
@[simp] theorem State.elapse_ctrl (s : State) : (s.elapse).ctrl = s.ctrl := rfl
@[simp] theorem State.elapse_clkCfg (s : State) : (s.elapse).clkCfg = s.clkCfg := rfl
@[simp] theorem State.elapse_buf (s : State) : (s.elapse).buf = s.buf := rfl
@[simp] theorem State.elapse_part (s : State) : (s.elapse).part = s.part := rfl
@[simp] theorem State.elapse_par (s : State) : (s.elapse).par = s.par := rfl
@[simp] theorem State.elapse_answers (s : State) : (s.elapse).answers = s.answers := rfl
@[simp] theorem State.elapse_draws (s : State) : (s.elapse).draws = s.draws := rfl
@[simp] theorem State.elapse_host (s : State) : (s.elapse).host = s.host := rfl
@[simp] theorem State.elapse_hostData (s : State) : (s.elapse).hostData = s.hostData := rfl
@[simp] theorem State.elapse_trace (s : State) : (s.elapse).trace = s.trace := rfl

@[simp] theorem State.elapse_timer (s : State) : (s.elapse).timer = 0 := rfl
@[simp] theorem State.elapse_progress (s : State) : (s.elapse).progress = false := rfl
/-! #### `afterDraw` takes one answer -/

@[simp] theorem State.afterDraw_regs (s : State) : (s.afterDraw).regs = s.regs := rfl
@[simp] theorem State.afterDraw_desc (s : State) : (s.afterDraw).desc = s.desc := rfl
@[simp] theorem State.afterDraw_prot (s : State) : (s.afterDraw).prot = s.prot := rfl
@[simp] theorem State.afterDraw_pos (s : State) : (s.afterDraw).pos = s.pos := rfl
@[simp] theorem State.afterDraw_work (s : State) : (s.afterDraw).work = s.work := rfl
@[simp] theorem State.afterDraw_timer (s : State) : (s.afterDraw).timer = s.timer := rfl
@[simp] theorem State.afterDraw_progress (s : State) : (s.afterDraw).progress = s.progress := rfl
@[simp] theorem State.afterDraw_ctrl (s : State) : (s.afterDraw).ctrl = s.ctrl := rfl
@[simp] theorem State.afterDraw_clkCfg (s : State) : (s.afterDraw).clkCfg = s.clkCfg := rfl
@[simp] theorem State.afterDraw_buf (s : State) : (s.afterDraw).buf = s.buf := rfl
@[simp] theorem State.afterDraw_part (s : State) : (s.afterDraw).part = s.part := rfl
@[simp] theorem State.afterDraw_par (s : State) : (s.afterDraw).par = s.par := rfl
@[simp] theorem State.afterDraw_host (s : State) : (s.afterDraw).host = s.host := rfl
@[simp] theorem State.afterDraw_hostData (s : State) : (s.afterDraw).hostData = s.hostData := rfl
@[simp] theorem State.afterDraw_trace (s : State) : (s.afterDraw).trace = s.trace := rfl

@[simp] theorem State.afterDraw_answers (s : State) : (s.afterDraw).answers = s.answers.tail := rfl
@[simp] theorem State.afterDraw_draws (s : State) : (s.afterDraw).draws = s.draws + 1 := rfl
/-! #### `emit` records a port action -/

@[simp] theorem State.emit_regs (s : State) (e : PortAction) : (s.emit e).regs = s.regs := rfl
@[simp] theorem State.emit_desc (s : State) (e : PortAction) : (s.emit e).desc = s.desc := rfl
@[simp] theorem State.emit_prot (s : State) (e : PortAction) : (s.emit e).prot = s.prot := rfl
@[simp] theorem State.emit_pos (s : State) (e : PortAction) : (s.emit e).pos = s.pos := rfl
@[simp] theorem State.emit_work (s : State) (e : PortAction) : (s.emit e).work = s.work := rfl
@[simp] theorem State.emit_timer (s : State) (e : PortAction) : (s.emit e).timer = s.timer := rfl
@[simp] theorem State.emit_progress (s : State) (e : PortAction) : (s.emit e).progress = s.progress := rfl
@[simp] theorem State.emit_ctrl (s : State) (e : PortAction) : (s.emit e).ctrl = s.ctrl := rfl
@[simp] theorem State.emit_clkCfg (s : State) (e : PortAction) : (s.emit e).clkCfg = s.clkCfg := rfl
@[simp] theorem State.emit_buf (s : State) (e : PortAction) : (s.emit e).buf = s.buf := rfl
@[simp] theorem State.emit_part (s : State) (e : PortAction) : (s.emit e).part = s.part := rfl
@[simp] theorem State.emit_par (s : State) (e : PortAction) : (s.emit e).par = s.par := rfl
@[simp] theorem State.emit_answers (s : State) (e : PortAction) : (s.emit e).answers = s.answers := rfl
@[simp] theorem State.emit_draws (s : State) (e : PortAction) : (s.emit e).draws = s.draws := rfl
@[simp] theorem State.emit_host (s : State) (e : PortAction) : (s.emit e).host = s.host := rfl
@[simp] theorem State.emit_hostData (s : State) (e : PortAction) : (s.emit e).hostData = s.hostData := rfl

@[simp] theorem State.emit_trace (s : State) (e : PortAction) : (s.emit e).trace = s.trace ++ [e] := rfl
/-! #### `delay` records itself and loads the timer -/

@[simp] theorem State.delay_regs (s : State) (n : Nat) : (s.delay n).regs = s.regs := rfl
@[simp] theorem State.delay_desc (s : State) (n : Nat) : (s.delay n).desc = s.desc := rfl
@[simp] theorem State.delay_prot (s : State) (n : Nat) : (s.delay n).prot = s.prot := rfl
@[simp] theorem State.delay_pos (s : State) (n : Nat) : (s.delay n).pos = s.pos := rfl
@[simp] theorem State.delay_work (s : State) (n : Nat) : (s.delay n).work = s.work := rfl
@[simp] theorem State.delay_progress (s : State) (n : Nat) : (s.delay n).progress = s.progress := rfl
@[simp] theorem State.delay_ctrl (s : State) (n : Nat) : (s.delay n).ctrl = s.ctrl := rfl
@[simp] theorem State.delay_clkCfg (s : State) (n : Nat) : (s.delay n).clkCfg = s.clkCfg := rfl
@[simp] theorem State.delay_buf (s : State) (n : Nat) : (s.delay n).buf = s.buf := rfl
@[simp] theorem State.delay_part (s : State) (n : Nat) : (s.delay n).part = s.part := rfl
@[simp] theorem State.delay_par (s : State) (n : Nat) : (s.delay n).par = s.par := rfl
@[simp] theorem State.delay_answers (s : State) (n : Nat) : (s.delay n).answers = s.answers := rfl
@[simp] theorem State.delay_draws (s : State) (n : Nat) : (s.delay n).draws = s.draws := rfl
@[simp] theorem State.delay_host (s : State) (n : Nat) : (s.delay n).host = s.host := rfl
@[simp] theorem State.delay_hostData (s : State) (n : Nat) : (s.delay n).hostData = s.hostData := rfl

@[simp] theorem State.delay_trace (s : State) (n : Nat) : (s.delay n).trace = s.trace ++ [.delay n] := rfl
@[simp] theorem State.delay_timer (s : State) (n : Nat) : (s.delay n).timer = n := rfl
/-! #### `partSelect` touches the part and the draws only -/

@[simp] theorem State.partSelect_regs (s : State) (w : Word) : (s.partSelect w).regs = s.regs := by unfold State.partSelect; (repeat' split) <;> rfl
@[simp] theorem State.partSelect_desc (s : State) (w : Word) : (s.partSelect w).desc = s.desc := by unfold State.partSelect; (repeat' split) <;> rfl
@[simp] theorem State.partSelect_prot (s : State) (w : Word) : (s.partSelect w).prot = s.prot := by unfold State.partSelect; (repeat' split) <;> rfl
@[simp] theorem State.partSelect_pos (s : State) (w : Word) : (s.partSelect w).pos = s.pos := by unfold State.partSelect; (repeat' split) <;> rfl
@[simp] theorem State.partSelect_work (s : State) (w : Word) : (s.partSelect w).work = s.work := by unfold State.partSelect; (repeat' split) <;> rfl
@[simp] theorem State.partSelect_timer (s : State) (w : Word) : (s.partSelect w).timer = s.timer := by unfold State.partSelect; (repeat' split) <;> rfl
@[simp] theorem State.partSelect_progress (s : State) (w : Word) : (s.partSelect w).progress = s.progress := by unfold State.partSelect; (repeat' split) <;> rfl
@[simp] theorem State.partSelect_ctrl (s : State) (w : Word) : (s.partSelect w).ctrl = s.ctrl := by unfold State.partSelect; (repeat' split) <;> rfl
@[simp] theorem State.partSelect_clkCfg (s : State) (w : Word) : (s.partSelect w).clkCfg = s.clkCfg := by unfold State.partSelect; (repeat' split) <;> rfl
@[simp] theorem State.partSelect_buf (s : State) (w : Word) : (s.partSelect w).buf = s.buf := by unfold State.partSelect; (repeat' split) <;> rfl
@[simp] theorem State.partSelect_par (s : State) (w : Word) : (s.partSelect w).par = s.par := by unfold State.partSelect; (repeat' split) <;> rfl
@[simp] theorem State.partSelect_host (s : State) (w : Word) : (s.partSelect w).host = s.host := by unfold State.partSelect; (repeat' split) <;> rfl
@[simp] theorem State.partSelect_hostData (s : State) (w : Word) : (s.partSelect w).hostData = s.hostData := by unfold State.partSelect; (repeat' split) <;> rfl
@[simp] theorem State.partSelect_trace (s : State) (w : Word) : (s.partSelect w).trace = s.trace := by unfold State.partSelect; (repeat' split) <;> rfl

/-! #### `ctrlWrite` writes `CTRL`, records itself, and lets the part see it -/

@[simp] theorem State.ctrlWrite_regs (s : State) (w : Word) : (s.ctrlWrite w).regs = s.regs := by simp [State.ctrlWrite]
@[simp] theorem State.ctrlWrite_desc (s : State) (w : Word) : (s.ctrlWrite w).desc = s.desc := by simp [State.ctrlWrite]
@[simp] theorem State.ctrlWrite_prot (s : State) (w : Word) : (s.ctrlWrite w).prot = s.prot := by simp [State.ctrlWrite]
@[simp] theorem State.ctrlWrite_pos (s : State) (w : Word) : (s.ctrlWrite w).pos = s.pos := by simp [State.ctrlWrite]
@[simp] theorem State.ctrlWrite_work (s : State) (w : Word) : (s.ctrlWrite w).work = s.work := by simp [State.ctrlWrite]
@[simp] theorem State.ctrlWrite_timer (s : State) (w : Word) : (s.ctrlWrite w).timer = s.timer := by simp [State.ctrlWrite]
@[simp] theorem State.ctrlWrite_progress (s : State) (w : Word) : (s.ctrlWrite w).progress = s.progress := by simp [State.ctrlWrite]
@[simp] theorem State.ctrlWrite_clkCfg (s : State) (w : Word) : (s.ctrlWrite w).clkCfg = s.clkCfg := by simp [State.ctrlWrite]
@[simp] theorem State.ctrlWrite_buf (s : State) (w : Word) : (s.ctrlWrite w).buf = s.buf := by simp [State.ctrlWrite]
@[simp] theorem State.ctrlWrite_par (s : State) (w : Word) : (s.ctrlWrite w).par = s.par := by simp [State.ctrlWrite]
@[simp] theorem State.ctrlWrite_host (s : State) (w : Word) : (s.ctrlWrite w).host = s.host := by simp [State.ctrlWrite]
@[simp] theorem State.ctrlWrite_hostData (s : State) (w : Word) : (s.ctrlWrite w).hostData = s.hostData := by simp [State.ctrlWrite]

@[simp] theorem State.ctrlWrite_ctrl (s : State) (w : Word) : (s.ctrlWrite w).ctrl = w := rfl
@[simp] theorem State.ctrlWrite_trace (s : State) (w : Word) : (s.ctrlWrite w).trace = s.trace ++ [.ctrlWrite w] := by simp [State.ctrlWrite]
/-! #### `afterShiftIn` touches the part and the draws only -/

@[simp] theorem State.afterShiftIn_regs (s : State) : (s.afterShiftIn).regs = s.regs := by unfold State.afterShiftIn; (repeat' split) <;> rfl
@[simp] theorem State.afterShiftIn_desc (s : State) : (s.afterShiftIn).desc = s.desc := by unfold State.afterShiftIn; (repeat' split) <;> rfl
@[simp] theorem State.afterShiftIn_prot (s : State) : (s.afterShiftIn).prot = s.prot := by unfold State.afterShiftIn; (repeat' split) <;> rfl
@[simp] theorem State.afterShiftIn_pos (s : State) : (s.afterShiftIn).pos = s.pos := by unfold State.afterShiftIn; (repeat' split) <;> rfl
@[simp] theorem State.afterShiftIn_work (s : State) : (s.afterShiftIn).work = s.work := by unfold State.afterShiftIn; (repeat' split) <;> rfl
@[simp] theorem State.afterShiftIn_timer (s : State) : (s.afterShiftIn).timer = s.timer := by unfold State.afterShiftIn; (repeat' split) <;> rfl
@[simp] theorem State.afterShiftIn_progress (s : State) : (s.afterShiftIn).progress = s.progress := by unfold State.afterShiftIn; (repeat' split) <;> rfl
@[simp] theorem State.afterShiftIn_ctrl (s : State) : (s.afterShiftIn).ctrl = s.ctrl := by unfold State.afterShiftIn; (repeat' split) <;> rfl
@[simp] theorem State.afterShiftIn_clkCfg (s : State) : (s.afterShiftIn).clkCfg = s.clkCfg := by unfold State.afterShiftIn; (repeat' split) <;> rfl
@[simp] theorem State.afterShiftIn_buf (s : State) : (s.afterShiftIn).buf = s.buf := by unfold State.afterShiftIn; (repeat' split) <;> rfl
@[simp] theorem State.afterShiftIn_par (s : State) : (s.afterShiftIn).par = s.par := by unfold State.afterShiftIn; (repeat' split) <;> rfl
@[simp] theorem State.afterShiftIn_host (s : State) : (s.afterShiftIn).host = s.host := by unfold State.afterShiftIn; (repeat' split) <;> rfl
@[simp] theorem State.afterShiftIn_hostData (s : State) : (s.afterShiftIn).hostData = s.hostData := by unfold State.afterShiftIn; (repeat' split) <;> rfl
@[simp] theorem State.afterShiftIn_trace (s : State) : (s.afterShiftIn).trace = s.trace := by unfold State.afterShiftIn; (repeat' split) <;> rfl

/-! #### `afterShiftInWord` touches the part and the draws only -/

@[simp] theorem State.afterShiftInWord_regs (s : State) : (s.afterShiftInWord).regs = s.regs := by unfold State.afterShiftInWord; split <;> simp
@[simp] theorem State.afterShiftInWord_desc (s : State) : (s.afterShiftInWord).desc = s.desc := by unfold State.afterShiftInWord; split <;> simp
@[simp] theorem State.afterShiftInWord_prot (s : State) : (s.afterShiftInWord).prot = s.prot := by unfold State.afterShiftInWord; split <;> simp
@[simp] theorem State.afterShiftInWord_pos (s : State) : (s.afterShiftInWord).pos = s.pos := by unfold State.afterShiftInWord; split <;> simp
@[simp] theorem State.afterShiftInWord_work (s : State) : (s.afterShiftInWord).work = s.work := by unfold State.afterShiftInWord; split <;> simp
@[simp] theorem State.afterShiftInWord_timer (s : State) : (s.afterShiftInWord).timer = s.timer := by unfold State.afterShiftInWord; split <;> simp
@[simp] theorem State.afterShiftInWord_progress (s : State) : (s.afterShiftInWord).progress = s.progress := by unfold State.afterShiftInWord; split <;> simp
@[simp] theorem State.afterShiftInWord_ctrl (s : State) : (s.afterShiftInWord).ctrl = s.ctrl := by unfold State.afterShiftInWord; split <;> simp
@[simp] theorem State.afterShiftInWord_clkCfg (s : State) : (s.afterShiftInWord).clkCfg = s.clkCfg := by unfold State.afterShiftInWord; split <;> simp
@[simp] theorem State.afterShiftInWord_buf (s : State) : (s.afterShiftInWord).buf = s.buf := by unfold State.afterShiftInWord; split <;> simp
@[simp] theorem State.afterShiftInWord_par (s : State) : (s.afterShiftInWord).par = s.par := by unfold State.afterShiftInWord; split <;> simp
@[simp] theorem State.afterShiftInWord_host (s : State) : (s.afterShiftInWord).host = s.host := by unfold State.afterShiftInWord; split <;> simp
@[simp] theorem State.afterShiftInWord_hostData (s : State) : (s.afterShiftInWord).hostData = s.hostData := by unfold State.afterShiftInWord; split <;> simp
@[simp] theorem State.afterShiftInWord_trace (s : State) : (s.afterShiftInWord).trace = s.trace := by unfold State.afterShiftInWord; split <;> simp

/-! #### `clockPart` touches the part only -/

@[simp] theorem State.clockPart_regs (s : State) (n : Nat) : (s.clockPart n).regs = s.regs := by unfold State.clockPart; split <;> rfl
@[simp] theorem State.clockPart_desc (s : State) (n : Nat) : (s.clockPart n).desc = s.desc := by unfold State.clockPart; split <;> rfl
@[simp] theorem State.clockPart_prot (s : State) (n : Nat) : (s.clockPart n).prot = s.prot := by unfold State.clockPart; split <;> rfl
@[simp] theorem State.clockPart_pos (s : State) (n : Nat) : (s.clockPart n).pos = s.pos := by unfold State.clockPart; split <;> rfl
@[simp] theorem State.clockPart_work (s : State) (n : Nat) : (s.clockPart n).work = s.work := by unfold State.clockPart; split <;> rfl
@[simp] theorem State.clockPart_timer (s : State) (n : Nat) : (s.clockPart n).timer = s.timer := by unfold State.clockPart; split <;> rfl
@[simp] theorem State.clockPart_progress (s : State) (n : Nat) : (s.clockPart n).progress = s.progress := by unfold State.clockPart; split <;> rfl
@[simp] theorem State.clockPart_ctrl (s : State) (n : Nat) : (s.clockPart n).ctrl = s.ctrl := by unfold State.clockPart; split <;> rfl
@[simp] theorem State.clockPart_clkCfg (s : State) (n : Nat) : (s.clockPart n).clkCfg = s.clkCfg := by unfold State.clockPart; split <;> rfl
@[simp] theorem State.clockPart_buf (s : State) (n : Nat) : (s.clockPart n).buf = s.buf := by unfold State.clockPart; split <;> rfl
@[simp] theorem State.clockPart_par (s : State) (n : Nat) : (s.clockPart n).par = s.par := by unfold State.clockPart; split <;> rfl
@[simp] theorem State.clockPart_answers (s : State) (n : Nat) : (s.clockPart n).answers = s.answers := by unfold State.clockPart; split <;> rfl
@[simp] theorem State.clockPart_draws (s : State) (n : Nat) : (s.clockPart n).draws = s.draws := by unfold State.clockPart; split <;> rfl
@[simp] theorem State.clockPart_host (s : State) (n : Nat) : (s.clockPart n).host = s.host := by unfold State.clockPart; split <;> rfl
@[simp] theorem State.clockPart_hostData (s : State) (n : Nat) : (s.clockPart n).hostData = s.hostData := by unfold State.clockPart; split <;> rfl
@[simp] theorem State.clockPart_trace (s : State) (n : Nat) : (s.clockPart n).trace = s.trace := by unfold State.clockPart; split <;> rfl

/-- With the window closed nothing is shifted. -/
theorem State.clockPart_closed {s : State} (h : windowOpen s.ctrl = false) (n : Nat) : s.clockPart n = s := by
  simp [State.clockPart, h]

/-- There is a reference part after it exactly when there was one before. -/
@[simp] theorem State.clockPart_isSome (s : State) (n : Nat) : (s.clockPart n).part.isSome = s.part.isSome := by
  unfold State.clockPart; split <;> simp

/-! #### `afterWindow` touches the part and the draws only -/

@[simp] theorem State.afterWindow_regs (s : State) (a : Word) (n : Nat) : (s.afterWindow a n).regs = s.regs := by unfold State.afterWindow; split <;> simp
@[simp] theorem State.afterWindow_desc (s : State) (a : Word) (n : Nat) : (s.afterWindow a n).desc = s.desc := by unfold State.afterWindow; split <;> simp
@[simp] theorem State.afterWindow_prot (s : State) (a : Word) (n : Nat) : (s.afterWindow a n).prot = s.prot := by unfold State.afterWindow; split <;> simp
@[simp] theorem State.afterWindow_pos (s : State) (a : Word) (n : Nat) : (s.afterWindow a n).pos = s.pos := by unfold State.afterWindow; split <;> simp
@[simp] theorem State.afterWindow_work (s : State) (a : Word) (n : Nat) : (s.afterWindow a n).work = s.work := by unfold State.afterWindow; split <;> simp
@[simp] theorem State.afterWindow_timer (s : State) (a : Word) (n : Nat) : (s.afterWindow a n).timer = s.timer := by unfold State.afterWindow; split <;> simp
@[simp] theorem State.afterWindow_progress (s : State) (a : Word) (n : Nat) : (s.afterWindow a n).progress = s.progress := by unfold State.afterWindow; split <;> simp
@[simp] theorem State.afterWindow_ctrl (s : State) (a : Word) (n : Nat) : (s.afterWindow a n).ctrl = s.ctrl := by unfold State.afterWindow; split <;> simp
@[simp] theorem State.afterWindow_clkCfg (s : State) (a : Word) (n : Nat) : (s.afterWindow a n).clkCfg = s.clkCfg := by unfold State.afterWindow; split <;> simp
@[simp] theorem State.afterWindow_buf (s : State) (a : Word) (n : Nat) : (s.afterWindow a n).buf = s.buf := by unfold State.afterWindow; split <;> simp
@[simp] theorem State.afterWindow_par (s : State) (a : Word) (n : Nat) : (s.afterWindow a n).par = s.par := by unfold State.afterWindow; split <;> simp
@[simp] theorem State.afterWindow_host (s : State) (a : Word) (n : Nat) : (s.afterWindow a n).host = s.host := by unfold State.afterWindow; split <;> simp
@[simp] theorem State.afterWindow_hostData (s : State) (a : Word) (n : Nat) : (s.afterWindow a n).hostData = s.hostData := by unfold State.afterWindow; split <;> simp
@[simp] theorem State.afterWindow_trace (s : State) (a : Word) (n : Nat) : (s.afterWindow a n).trace = s.trace := by unfold State.afterWindow; split <;> simp

/-! #### `winRead32` -/

@[simp] theorem State.winRead32_regs (s : State) (a : Word) : (s.winRead32 a).regs = s.regs := by simp [State.winRead32]
@[simp] theorem State.winRead32_desc (s : State) (a : Word) : (s.winRead32 a).desc = s.desc := by simp [State.winRead32]
@[simp] theorem State.winRead32_prot (s : State) (a : Word) : (s.winRead32 a).prot = s.prot := by simp [State.winRead32]
@[simp] theorem State.winRead32_pos (s : State) (a : Word) : (s.winRead32 a).pos = s.pos := by simp [State.winRead32]
@[simp] theorem State.winRead32_timer (s : State) (a : Word) : (s.winRead32 a).timer = s.timer := by simp [State.winRead32]
@[simp] theorem State.winRead32_progress (s : State) (a : Word) : (s.winRead32 a).progress = s.progress := by simp [State.winRead32]
@[simp] theorem State.winRead32_ctrl (s : State) (a : Word) : (s.winRead32 a).ctrl = s.ctrl := by simp [State.winRead32]
@[simp] theorem State.winRead32_clkCfg (s : State) (a : Word) : (s.winRead32 a).clkCfg = s.clkCfg := by simp [State.winRead32]
@[simp] theorem State.winRead32_buf (s : State) (a : Word) : (s.winRead32 a).buf = s.buf := by simp [State.winRead32]
@[simp] theorem State.winRead32_par (s : State) (a : Word) : (s.winRead32 a).par = s.par := by simp [State.winRead32]
@[simp] theorem State.winRead32_host (s : State) (a : Word) : (s.winRead32 a).host = s.host := by simp [State.winRead32]
@[simp] theorem State.winRead32_hostData (s : State) (a : Word) : (s.winRead32 a).hostData = s.hostData := by simp [State.winRead32]

/-! #### `winRead8` -/

@[simp] theorem State.winRead8_regs (s : State) (a : Word) : (s.winRead8 a).regs = s.regs := by simp [State.winRead8]
@[simp] theorem State.winRead8_desc (s : State) (a : Word) : (s.winRead8 a).desc = s.desc := by simp [State.winRead8]
@[simp] theorem State.winRead8_prot (s : State) (a : Word) : (s.winRead8 a).prot = s.prot := by simp [State.winRead8]
@[simp] theorem State.winRead8_pos (s : State) (a : Word) : (s.winRead8 a).pos = s.pos := by simp [State.winRead8]
@[simp] theorem State.winRead8_timer (s : State) (a : Word) : (s.winRead8 a).timer = s.timer := by simp [State.winRead8]
@[simp] theorem State.winRead8_progress (s : State) (a : Word) : (s.winRead8 a).progress = s.progress := by simp [State.winRead8]
@[simp] theorem State.winRead8_ctrl (s : State) (a : Word) : (s.winRead8 a).ctrl = s.ctrl := by simp [State.winRead8]
@[simp] theorem State.winRead8_clkCfg (s : State) (a : Word) : (s.winRead8 a).clkCfg = s.clkCfg := by simp [State.winRead8]
@[simp] theorem State.winRead8_buf (s : State) (a : Word) : (s.winRead8 a).buf = s.buf := by simp [State.winRead8]
@[simp] theorem State.winRead8_par (s : State) (a : Word) : (s.winRead8 a).par = s.par := by simp [State.winRead8]
@[simp] theorem State.winRead8_host (s : State) (a : Word) : (s.winRead8 a).host = s.host := by simp [State.winRead8]
@[simp] theorem State.winRead8_hostData (s : State) (a : Word) : (s.winRead8 a).hostData = s.hostData := by simp [State.winRead8]

@[simp] theorem State.winRead32_trace (s : State) (a : Word) : (s.winRead32 a).trace = s.trace ++ [.winRead32 a (s.windowWord a)] := by simp [State.winRead32]
@[simp] theorem State.winRead32_work (s : State) (a : Word) : (s.winRead32 a).work = { s.work with word := s.windowWord a } := by simp [State.winRead32]
@[simp] theorem State.winRead8_trace (s : State) (a : Word) : (s.winRead8 a).trace = s.trace ++ [.winRead8 a (s.windowByte a)] := by simp [State.winRead8]
@[simp] theorem State.winRead8_work (s : State) (a : Word) : (s.winRead8 a).work = { s.work with b := s.windowByte a } := by simp [State.winRead8]
/-! #### `clkCfgRead` -/

@[simp] theorem State.clkCfgRead_regs (s : State) : (s.clkCfgRead).regs = s.regs := rfl
@[simp] theorem State.clkCfgRead_desc (s : State) : (s.clkCfgRead).desc = s.desc := rfl
@[simp] theorem State.clkCfgRead_prot (s : State) : (s.clkCfgRead).prot = s.prot := rfl
@[simp] theorem State.clkCfgRead_pos (s : State) : (s.clkCfgRead).pos = s.pos := rfl
@[simp] theorem State.clkCfgRead_timer (s : State) : (s.clkCfgRead).timer = s.timer := rfl
@[simp] theorem State.clkCfgRead_progress (s : State) : (s.clkCfgRead).progress = s.progress := rfl
@[simp] theorem State.clkCfgRead_ctrl (s : State) : (s.clkCfgRead).ctrl = s.ctrl := rfl
@[simp] theorem State.clkCfgRead_clkCfg (s : State) : (s.clkCfgRead).clkCfg = s.clkCfg := rfl
@[simp] theorem State.clkCfgRead_buf (s : State) : (s.clkCfgRead).buf = s.buf := rfl
@[simp] theorem State.clkCfgRead_part (s : State) : (s.clkCfgRead).part = s.part := rfl
@[simp] theorem State.clkCfgRead_par (s : State) : (s.clkCfgRead).par = s.par := rfl
@[simp] theorem State.clkCfgRead_answers (s : State) : (s.clkCfgRead).answers = s.answers := rfl
@[simp] theorem State.clkCfgRead_draws (s : State) : (s.clkCfgRead).draws = s.draws := rfl
@[simp] theorem State.clkCfgRead_host (s : State) : (s.clkCfgRead).host = s.host := rfl
@[simp] theorem State.clkCfgRead_hostData (s : State) : (s.clkCfgRead).hostData = s.hostData := rfl

@[simp] theorem State.clkCfgRead_trace (s : State) : (s.clkCfgRead).trace = s.trace ++ [.clkCfgRead s.clkCfg] := rfl
@[simp] theorem State.clkCfgRead_work (s : State) : (s.clkCfgRead).work = { s.work with word := s.clkCfg } := rfl
/-! #### `bufRead8` -/

@[simp] theorem State.bufRead8_regs (s : State) (a : Word) : (s.bufRead8 a).regs = s.regs := rfl
@[simp] theorem State.bufRead8_desc (s : State) (a : Word) : (s.bufRead8 a).desc = s.desc := rfl
@[simp] theorem State.bufRead8_prot (s : State) (a : Word) : (s.bufRead8 a).prot = s.prot := rfl
@[simp] theorem State.bufRead8_pos (s : State) (a : Word) : (s.bufRead8 a).pos = s.pos := rfl
@[simp] theorem State.bufRead8_timer (s : State) (a : Word) : (s.bufRead8 a).timer = s.timer := rfl
@[simp] theorem State.bufRead8_progress (s : State) (a : Word) : (s.bufRead8 a).progress = s.progress := rfl
@[simp] theorem State.bufRead8_ctrl (s : State) (a : Word) : (s.bufRead8 a).ctrl = s.ctrl := rfl
@[simp] theorem State.bufRead8_clkCfg (s : State) (a : Word) : (s.bufRead8 a).clkCfg = s.clkCfg := rfl
@[simp] theorem State.bufRead8_buf (s : State) (a : Word) : (s.bufRead8 a).buf = s.buf := rfl
@[simp] theorem State.bufRead8_part (s : State) (a : Word) : (s.bufRead8 a).part = s.part := rfl
@[simp] theorem State.bufRead8_par (s : State) (a : Word) : (s.bufRead8 a).par = s.par := rfl
@[simp] theorem State.bufRead8_answers (s : State) (a : Word) : (s.bufRead8 a).answers = s.answers := rfl
@[simp] theorem State.bufRead8_draws (s : State) (a : Word) : (s.bufRead8 a).draws = s.draws := rfl
@[simp] theorem State.bufRead8_host (s : State) (a : Word) : (s.bufRead8 a).host = s.host := rfl
@[simp] theorem State.bufRead8_hostData (s : State) (a : Word) : (s.bufRead8 a).hostData = s.hostData := rfl

@[simp] theorem State.bufRead8_trace (s : State) (a : Word) : (s.bufRead8 a).trace = s.trace ++ [.bufRead8 a (Memory.read s.buf a.toNat)] := rfl
@[simp] theorem State.bufRead8_work (s : State) (a : Word) : (s.bufRead8 a).work = { s.work with b := Memory.read s.buf a.toNat } := rfl
/-! #### `bufWrite8` -/

@[simp] theorem State.bufWrite8_regs (s : State) (a : Word) (b : Byte) : (s.bufWrite8 a b).regs = s.regs := rfl
@[simp] theorem State.bufWrite8_desc (s : State) (a : Word) (b : Byte) : (s.bufWrite8 a b).desc = s.desc := rfl
@[simp] theorem State.bufWrite8_prot (s : State) (a : Word) (b : Byte) : (s.bufWrite8 a b).prot = s.prot := rfl
@[simp] theorem State.bufWrite8_pos (s : State) (a : Word) (b : Byte) : (s.bufWrite8 a b).pos = s.pos := rfl
@[simp] theorem State.bufWrite8_work (s : State) (a : Word) (b : Byte) : (s.bufWrite8 a b).work = s.work := rfl
@[simp] theorem State.bufWrite8_timer (s : State) (a : Word) (b : Byte) : (s.bufWrite8 a b).timer = s.timer := rfl
@[simp] theorem State.bufWrite8_progress (s : State) (a : Word) (b : Byte) : (s.bufWrite8 a b).progress = s.progress := rfl
@[simp] theorem State.bufWrite8_ctrl (s : State) (a : Word) (b : Byte) : (s.bufWrite8 a b).ctrl = s.ctrl := rfl
@[simp] theorem State.bufWrite8_clkCfg (s : State) (a : Word) (b : Byte) : (s.bufWrite8 a b).clkCfg = s.clkCfg := rfl
@[simp] theorem State.bufWrite8_part (s : State) (a : Word) (b : Byte) : (s.bufWrite8 a b).part = s.part := rfl
@[simp] theorem State.bufWrite8_par (s : State) (a : Word) (b : Byte) : (s.bufWrite8 a b).par = s.par := rfl
@[simp] theorem State.bufWrite8_answers (s : State) (a : Word) (b : Byte) : (s.bufWrite8 a b).answers = s.answers := rfl
@[simp] theorem State.bufWrite8_draws (s : State) (a : Word) (b : Byte) : (s.bufWrite8 a b).draws = s.draws := rfl
@[simp] theorem State.bufWrite8_host (s : State) (a : Word) (b : Byte) : (s.bufWrite8 a b).host = s.host := rfl
@[simp] theorem State.bufWrite8_hostData (s : State) (a : Word) (b : Byte) : (s.bufWrite8 a b).hostData = s.hostData := rfl

@[simp] theorem State.bufWrite8_trace (s : State) (a : Word) (b : Byte) : (s.bufWrite8 a b).trace = s.trace ++ [.bufWrite8 a b] := rfl
@[simp] theorem State.bufWrite8_buf (s : State) (a : Word) (b : Byte) : (s.bufWrite8 a b).buf = Memory.write s.buf a.toNat b := rfl
/-! #### `enter` issues a command -/

@[simp] theorem State.enter_desc (s : State) (i : Instr) : (s.enter i).desc = s.desc := rfl
@[simp] theorem State.enter_prot (s : State) (i : Instr) : (s.enter i).prot = s.prot := rfl
@[simp] theorem State.enter_timer (s : State) (i : Instr) : (s.enter i).timer = s.timer := rfl
@[simp] theorem State.enter_progress (s : State) (i : Instr) : (s.enter i).progress = s.progress := rfl
@[simp] theorem State.enter_ctrl (s : State) (i : Instr) : (s.enter i).ctrl = s.ctrl := rfl
@[simp] theorem State.enter_clkCfg (s : State) (i : Instr) : (s.enter i).clkCfg = s.clkCfg := rfl
@[simp] theorem State.enter_buf (s : State) (i : Instr) : (s.enter i).buf = s.buf := rfl
@[simp] theorem State.enter_part (s : State) (i : Instr) : (s.enter i).part = s.part := rfl
@[simp] theorem State.enter_par (s : State) (i : Instr) : (s.enter i).par = s.par := rfl
@[simp] theorem State.enter_answers (s : State) (i : Instr) : (s.enter i).answers = s.answers := rfl
@[simp] theorem State.enter_draws (s : State) (i : Instr) : (s.enter i).draws = s.draws := rfl
@[simp] theorem State.enter_host (s : State) (i : Instr) : (s.enter i).host = s.host := rfl
@[simp] theorem State.enter_hostData (s : State) (i : Instr) : (s.enter i).hostData = s.hostData := rfl
@[simp] theorem State.enter_trace (s : State) (i : Instr) : (s.enter i).trace = s.trace := rfl

@[simp] theorem State.enter_pos (s : State) (i : Instr) : (s.enter i).pos = [firstFrame s i] := rfl
@[simp] theorem State.enter_regs (s : State) (i : Instr) : (s.enter i).regs = { s.regs with busy := true, done := false, rc := 0 } := rfl
@[simp] theorem State.enter_work (s : State) (i : Instr) : (s.enter i).work = { s.work with a0 := s.regs.arg0, a1 := s.regs.arg1, a2 := s.regs.arg2 } := rfl
/-! #### `hwReset` resets the block -/

@[simp] theorem State.hwReset_ctrl (s : State) : (s.hwReset).ctrl = s.ctrl := rfl
@[simp] theorem State.hwReset_clkCfg (s : State) : (s.hwReset).clkCfg = s.clkCfg := rfl
@[simp] theorem State.hwReset_buf (s : State) : (s.hwReset).buf = s.buf := rfl
@[simp] theorem State.hwReset_part (s : State) : (s.hwReset).part = s.part := rfl
@[simp] theorem State.hwReset_par (s : State) : (s.hwReset).par = s.par := rfl
@[simp] theorem State.hwReset_answers (s : State) : (s.hwReset).answers = s.answers := rfl
@[simp] theorem State.hwReset_draws (s : State) : (s.hwReset).draws = s.draws := rfl
@[simp] theorem State.hwReset_host (s : State) : (s.hwReset).host = s.host := rfl
@[simp] theorem State.hwReset_hostData (s : State) : (s.hwReset).hostData = s.hostData := rfl
@[simp] theorem State.hwReset_trace (s : State) : (s.hwReset).trace = s.trace := rfl

@[simp] theorem State.hwReset_regs (s : State) : (s.hwReset).regs = HostRegs.reset := rfl
@[simp] theorem State.hwReset_desc (s : State) : (s.hwReset).desc = Descriptor.reset := rfl
@[simp] theorem State.hwReset_prot (s : State) : (s.hwReset).prot = List.replicate s.prot.length false := rfl
@[simp] theorem State.hwReset_pos (s : State) : (s.hwReset).pos = [] := rfl
@[simp] theorem State.hwReset_work (s : State) : (s.hwReset).work = WorkRegs.reset := rfl
@[simp] theorem State.hwReset_timer (s : State) : (s.hwReset).timer = 0 := rfl
@[simp] theorem State.hwReset_progress (s : State) : (s.hwReset).progress = false := rfl
/-! ### The position, while a procedure runs -/

variable {s : State} {f g : Frame} {fs : List Frame}

theorem State.frame_of_running (h : s.pos = f :: fs) : s.frame = f := by simp [State.frame, h]

theorem State.stepNo_of_running (h : s.pos = f :: fs) : s.stepNo = f.step := by
  simp [State.stepNo, State.frame_of_running h]

theorem State.setFrame_pos (h : s.pos = f :: fs) (g : Frame) : (s.setFrame g).pos = g :: fs := by
  simp [State.setFrame, h]

theorem State.goto_pos (h : s.pos = f :: fs) (n : Nat) : (s.goto n).pos = { f with step := n } :: fs := by
  simp [State.goto, State.setFrame_pos h, State.frame_of_running h]

theorem State.gotoWith_pos (h : s.pos = f :: fs) (k n : Nat) :
    (s.gotoWith k n).pos = { f with step := n, k := k } :: fs := by
  simp [State.gotoWith, State.setFrame_pos h, State.frame_of_running h]

/-- `goto` as one record update. -/
theorem State.goto_eq (h : s.pos = f :: fs) (n : Nat) : s.goto n = { s with pos := { f with step := n } :: fs } := by
  simp [State.goto, State.setFrame, h, State.frame_of_running h]

/-- `gotoWith` as one record update. -/
theorem State.gotoWith_eq (h : s.pos = f :: fs) (k n : Nat) :
    s.gotoWith k n = { s with pos := { f with step := n, k := k } :: fs } := by
  simp [State.gotoWith, State.setFrame, h, State.frame_of_running h]

/-- A called procedure returns to the step after its call. -/
theorem State.finish_of_called (h : s.pos = f :: g :: fs) :
    s.finish = { s with pos := { g with step := g.step + 1 } :: fs } := by
  simp [State.finish, h]

/-- A procedure that is the command itself completes with code 0. -/
theorem State.finish_of_command (h : s.pos = [f]) : s.finish = s.complete 0 := by
  simp [State.finish, h]

/-- Where `finish` leaves the position depends on the position alone. -/
theorem State.finish_pos_congr {t : State} (h : t.pos = s.pos) : t.finish.pos = s.finish.pos := by
  unfold State.finish; rw [h]; split <;> rfl

/-- The end of a procedure depends on the frames below it alone. -/
theorem State.finish_pos_tail {t : State} (hs : s.pos = f :: fs) (ht : t.pos = g :: fs) :
    t.finish.pos = s.finish.pos := by
  cases fs <;> simp [State.finish, hs, ht]

theorem State.finish_regs_tail {t : State} (hs : s.pos = f :: fs) (ht : t.pos = g :: fs) (hr : t.regs = s.regs) :
    t.finish.regs = s.finish.regs := by
  cases fs <;> simp [State.finish, hs, ht, hr]

end Sys2Proof.Machine
end

