-- ==== Sys2Proof/Laws/Ops.lean ====
section
/-! SUPPORT. What each shared operation can do, said once. -/

namespace Sys2Proof.Machine

variable {s t : State} {f : Frame} {fs : List Frame}

/-! ### Outcomes -/

@[simp] theorem thenNext_next (u : State) (g : State → State) : thenNext (.next u) g = .next (g u) := rfl

theorem thenNext_eq_next {r : Result} {g : State → State} :
    thenNext r g = .next t ↔ ∃ u, r = .next u ∧ g u = t := by
  cases r <;> simp [thenNext]

/-! ### Accesses to the data window -/

/-- The state after a byte has been sent. -/
def State.sent8 (s : State) (b : Byte) : State :=
  { s.emit (.dataWrite8 s.regs.bankBase b) with part := s.part.map (RefPart.receive · b) }

/-- The state after a status byte has been read into `w_b`. -/
def State.read8 (s : State) : State :=
  { s.afterShiftIn.emit (.dataRead8 s.regs.bankBase s.shiftedIn) with work.b := s.shiftedIn }

/-- The state after the id word has been read into `w_word`. -/
def State.read32 (s : State) : State :=
  { s.afterShiftInWord.emit (.dataRead32 s.regs.bankBase s.shiftedInWord) with work.word := s.shiftedInWord }

theorem State.dataWrite8_open (h : windowOpen s.ctrl = true) (b : Byte) : s.dataWrite8 b = .next (s.sent8 b) := by
  simp [State.dataWrite8, State.sent8, h]

theorem State.dataRead8_open (h : windowOpen s.ctrl = true) : s.dataRead8 = .next s.read8 := by
  simp [State.dataRead8, State.read8, h]

theorem State.dataRead32_open (h : windowOpen s.ctrl = true) : s.dataRead32 = .next s.read32 := by
  simp [State.dataRead32, State.read32, h]

/-- A byte is sent only in an open window. -/
theorem State.dataWrite8_eq_next {b : Byte} :
    s.dataWrite8 b = .next t ↔ windowOpen s.ctrl = true ∧ t = s.sent8 b := by
  unfold State.dataWrite8
  split
  · next h => exact ⟨fun e => ⟨h, by injection e with e; exact e.symm⟩, fun e => by rw [e.2]; rfl⟩
  · next h => exact ⟨(nomatch ·), fun e => absurd e.1 h⟩

/-- A status byte is read only in an open window. -/
theorem State.dataRead8_eq_next : s.dataRead8 = .next t ↔ windowOpen s.ctrl = true ∧ t = s.read8 := by
  unfold State.dataRead8
  split
  · next h => exact ⟨fun e => ⟨h, by injection e with e; exact e.symm⟩, fun e => by rw [e.2]; rfl⟩
  · next h => exact ⟨(nomatch ·), fun e => absurd e.1 h⟩

/-- The id is read only in an open window. -/
theorem State.dataRead32_eq_next : s.dataRead32 = .next t ↔ windowOpen s.ctrl = true ∧ t = s.read32 := by
  unfold State.dataRead32
  split
  · next h => exact ⟨fun e => ⟨h, by injection e with e; exact e.symm⟩, fun e => by rw [e.2]; rfl⟩
  · next h => exact ⟨(nomatch ·), fun e => absurd e.1 h⟩

/-! ### One step of a transaction -/

/-- What the tail can do: nothing; one poll read, which stays or goes on; the id read; the end of the data bytes; the
fetch of the next one. -/
inductive TailCase (tail : Tail) (s : State) : State → Prop where
  | none (h : tail = .none) : TailCase tail s (s.goto 6)
  | pollMet {mask want : Byte} (h : tail = .poll mask want) (hw : windowOpen s.ctrl = true)
      (hb : pollMet mask want s.shiftedIn = true) : TailCase tail s (s.read8.goto 6)
  | pollAgain {mask want : Byte} (h : tail = .poll mask want) (hw : windowOpen s.ctrl = true)
      (hb : pollMet mask want s.shiftedIn = false) : TailCase tail s s.read8
  | read24 (h : tail = .read24) (hw : windowOpen s.ctrl = true) : TailCase tail s (s.read32.goto 6)
  | dataEnd {src n : Word} (h : tail = .data src n) (hk : s.frame.k = n.toNat) : TailCase tail s (s.goto 6)
  | dataFetch {src n : Word} (h : tail = .data src n) (hk : s.frame.k ≠ n.toNat) :
      TailCase tail s ((s.bufRead8 (src + BitVec.ofNat 32 s.frame.k)).goto 9)

theorem tailStep_eq_next {tail : Tail} (h : tailStep tail s = .next t) : TailCase tail s t := by
  unfold tailStep at h
  cases tail with
  | none => cases h; exact .none rfl
  | poll mask want =>
    obtain ⟨u, hu, rfl⟩ := thenNext_eq_next.1 h
    obtain ⟨hw, rfl⟩ := State.dataRead8_eq_next.1 hu
    by_cases hb : pollMet mask want s.shiftedIn = true
    · simpa [State.read8, hb] using TailCase.pollMet (s := s) rfl hw hb
    · have hb' : pollMet mask want s.shiftedIn = false := by simpa using hb
      simpa [State.read8, hb'] using TailCase.pollAgain (s := s) rfl hw hb'
  | read24 =>
    obtain ⟨u, hu, rfl⟩ := thenNext_eq_next.1 h
    obtain ⟨hw, rfl⟩ := State.dataRead32_eq_next.1 hu
    exact .read24 rfl hw
  | data src n =>
    simp only at h
    split at h
    · cases h; exact .dataEnd rfl ‹_›
    · cases h; exact .dataFetch rfl ‹_›

/-- What one step of `Txn` can do, step by step (40_control_word_and_transaction.md R81). -/
inductive TxnCase (div : DivCode) (out : List Byte) (tail : Tail) (s : State) : State → Prop where
  | t1 (h : s.stepNo = 1) : TxnCase div out tail s
      (({ s with work.div := div }.ctrlWrite (controlWord div .low .userMode)).goto 2)
  | t2 (h : s.stepNo = 2) : TxnCase div out tail s ((s.delay Config.tCtrl).gotoWith 0 3)
  | t3a (h : s.stepNo = 3) (hw : windowOpen s.ctrl = true) :
      TxnCase div out tail s ((s.sent8 (out.getD s.frame.k 0)).goto 4)
  | t3bMore (h : s.stepNo = 4) (hk : s.frame.k + 1 < out.length) :
      TxnCase div out tail s ((s.delay Config.tByte).gotoWith (s.frame.k + 1) 3)
  | t3bLast (h : s.stepNo = 4) (hk : out.length ≤ s.frame.k + 1) :
      TxnCase div out tail s ((s.delay Config.tByte).gotoWith 0 5)
  | t4 {t : State} (h : s.stepNo = 5) (ht : TailCase tail s t) : TxnCase div out tail s t
  | t5 (h : s.stepNo = 6) : TxnCase div out tail s ((s.ctrlWrite (controlWord s.work.div .high .userMode)).goto 7)
  | t6 (h : s.stepNo = 7) : TxnCase div out tail s ((s.delay Config.tCtrl).goto 8)
  | done (h : s.stepNo = 8) : TxnCase div out tail s s.finish
  | g9Send {src n : Word} (h : s.stepNo = 9) (ht : tail = .data src n) (hw : windowOpen s.ctrl = true) :
      TxnCase div out tail s ((s.sent8 s.work.b).goto 10)
  | g9Settle {src n : Word} (h : s.stepNo = 10) (ht : tail = .data src n) :
      TxnCase div out tail s ((s.delay Config.tByte).gotoWith (s.frame.k + 1) 5)

theorem txnStep_eq_next {div : DivCode} {out : List Byte} {tail : Tail} (h : txnStep div out tail s = .next t) :
    TxnCase div out tail s t := by
  unfold txnStep at h
  split at h
  · cases h; exact .t1 ‹_›
  · cases h; exact .t2 ‹_›
  · obtain ⟨u, hu, rfl⟩ := thenNext_eq_next.1 h
    obtain ⟨hw, rfl⟩ := State.dataWrite8_eq_next.1 hu
    exact .t3a ‹_› hw
  · split at h
    · cases h; exact .t3bMore ‹_› ‹_›
    · cases h; exact .t3bLast ‹_› (by omega)
  · exact .t4 ‹_› (tailStep_eq_next h)
  · cases h; exact .t5 ‹_›
  · cases h; exact .t6 ‹_›
  · cases h; exact .done ‹_›
  · cases tail <;> simp only at h <;> try contradiction
    obtain ⟨u, hu, rfl⟩ := thenNext_eq_next.1 h
    obtain ⟨hw, rfl⟩ := State.dataWrite8_eq_next.1 hu
    exact .g9Send ‹_› rfl hw
  · cases tail <;> simp only at h <;> try contradiction
    cases h; exact .g9Settle ‹_› rfl
  · cases h

/-! ### The oracle -/

theorem State.partSelect_oracle (h : s.part = none) (w : Word) : s.partSelect w = s := by
  simp [State.partSelect, h]

theorem State.ctrlWrite_oracle (h : s.part = none) (w : Word) : s.ctrlWrite w = { s.emit (.ctrlWrite w) with ctrl := w } := by
  simp [State.ctrlWrite, State.partSelect_oracle h]

theorem State.sent8_oracle (h : s.part = none) (b : Byte) : s.sent8 b = s.emit (.dataWrite8 s.regs.bankBase b) := by
  simp [State.sent8, State.emit, h]

theorem State.shiftedIn_oracle (h : s.part = none) : s.shiftedIn = s.drawn.extractLsb' 0 8 := by
  simp [State.shiftedIn, h]

theorem State.afterShiftIn_oracle (h : s.part = none) : s.afterShiftIn = s.afterDraw := by
  simp [State.afterShiftIn, h]

theorem State.shiftedInWord_oracle (h : s.part = none) : s.shiftedInWord = s.drawn := by
  simp [State.shiftedInWord, h]

theorem State.afterShiftInWord_oracle (h : s.part = none) : s.afterShiftInWord = s.afterDraw := by
  simp [State.afterShiftInWord, h]

theorem State.windowBytes_oracle (h : s.part = none) (a : Word) (n : Nat) : s.windowBytes a n = none := by
  simp [State.windowBytes, h]

theorem State.windowWord_oracle (h : s.part = none) (a : Word) : s.windowWord a = s.drawn := by
  simp [State.windowWord, State.windowBytes_oracle h]

theorem State.windowByte_oracle (h : s.part = none) (a : Word) : s.windowByte a = s.drawn.extractLsb' 0 8 := by
  simp [State.windowByte, State.windowBytes_oracle h]

theorem State.clockPart_oracle (h : s.part = none) (n : Nat) : s.clockPart n = s := by
  unfold State.clockPart
  split
  · rw [h]; exact (congrArg (fun p => { s with part := p }) h).symm
  · rfl

theorem State.afterWindow_oracle (h : s.part = none) (a : Word) (n : Nat) : s.afterWindow a n = s.afterDraw := by
  simp [State.afterWindow, State.windowBytes_oracle h, State.clockPart_oracle h]

/-- A listed answer is the one drawn. -/
theorem State.drawn_of_answers {w : Word} {ws : List Word} (h : s.answers = w :: ws) : s.drawn = w := by
  simp [State.drawn, h]

/-! ### The reference part at its ports -/

/-- A read by RBUF with the window closed leaves the part. -/
theorem State.afterWindow_part_closed (h : windowOpen s.ctrl = false) (a : Word) (n : Nat) :
    (s.afterWindow a n).part = s.part := by
  unfold State.afterWindow
  split
  · rfl
  · rw [State.clockPart_closed h]; rfl

/-- A read by RBUF with the window open shifts its bytes out of the part. -/
theorem State.afterWindow_part_open (h : windowOpen s.ctrl = true) (a : Word) (n : Nat) :
    (s.afterWindow a n).part = s.part.map fun p => p.shiftOut n := by
  have hd : defaultMode s.ctrl = false := by
    simp only [windowOpen, Bool.decide_and, Bool.and_eq_true, decide_eq_true_eq] at h
    simp [defaultMode, h.1]
  have hw : s.windowBytes a n = none := by
    unfold State.windowBytes
    split
    · rfl
    · simp [hd]
  simp [State.afterWindow, hw, State.clockPart, h, State.afterDraw]

/-- A control write that leaves chip-select low leaves the part. -/
theorem State.partSelect_stays_low {w : Word} (h : selected s.ctrl = true) (hw : selected w = true) :
    s.partSelect w = s := by
  unfold State.partSelect
  split <;> simp [h, hw]

/-- A control write that takes chip-select low starts a new command. -/
theorem State.partSelect_goes_low {w : Word} (h : selected s.ctrl = false) (hw : selected w = true) :
    (s.partSelect w).part = s.part.map RefPart.select := by
  unfold State.partSelect
  split <;> simp_all

/-! ### Words and windows -/

@[simp] theorem windowOpen_low (d : DivCode) : windowOpen (controlWord d .low .userMode) = true := by
  revert d; decide

@[simp] theorem windowOpen_high (d : DivCode) : windowOpen (controlWord d .high .userMode) = false := by
  revert d; decide

@[simp] theorem windowOpen_default (d : DivCode) : windowOpen (controlWord d .high .fastRead) = false := by
  revert d; decide

end Sys2Proof.Machine
end

