-- ==== Sys2Proof/Laws/PerInstr.lean ====
section
/-! SUPPORT. Statements about each operation as syntax: its encoding has the shape of its format (30_encoding.md R62, R65 to
R67, R72). -/

namespace Sys2Proof.Laws.EncodesAsFormat

/-- The encoded bytes of the operation. A transaction is a whole byte sequence of its opcode's format with the header
length of R72; a host command is one word whose code is one of the nine of R66. -/
def Statement (i : Instr) : Prop :=
  match i.space with
  | .wire => transactionWf (encode i) = true ∧ (encode i).length = Machine.headerLength i
  | .command => (encode i).length = 4 ∧ 1 ≤ (opcodeOf i).toNat ∧ (opcodeOf i).toNat ≤ 9

theorem ident : Statement .ident := ⟨rfl, by decide, by decide⟩

theorem wren : Statement .wren := ⟨rfl, by decide, by decide⟩

theorem wrsr : Statement .wrsr := ⟨rfl, by decide, by decide⟩

theorem pp : Statement .pp := ⟨rfl, by decide, by decide⟩

theorem se : Statement .se := ⟨rfl, by decide, by decide⟩

theorem reset : Statement .reset := ⟨rfl, by decide, by decide⟩

theorem erase : Statement .erase := ⟨rfl, by decide, by decide⟩

theorem wbuf : Statement .wbuf := ⟨rfl, by decide, by decide⟩

theorem rbuf : Statement .rbuf := ⟨rfl, by decide, by decide⟩

theorem rdid : Statement .rdid := ⟨rfl, rfl⟩

theorem spiWren : Statement .spiWren := ⟨rfl, rfl⟩

theorem spoll : Statement .spoll := ⟨rfl, rfl⟩

theorem spiWrsr (v : Byte) : Statement (.spiWrsr v) := by
  simp [Statement, Instr.space, encode, opcodeOf, operandBytes, transactionWf, Machine.headerLength]

theorem spiPp (a2 a1 a0 : Byte) : Statement (.spiPp a2 a1 a0) := by
  simp [Statement, Instr.space, encode, opcodeOf, operandBytes, transactionWf, Machine.headerLength]

theorem spiSe (a2 a1 a0 : Byte) : Statement (.spiSe a2 a1 a0) := by
  simp [Statement, Instr.space, encode, opcodeOf, operandBytes, transactionWf, Machine.headerLength]

end Sys2Proof.Laws.EncodesAsFormat
end

