-- ==== Sys2Proof/Laws/Run.lean ====
section
/-! SUPPORT. What one step can do, and runs: how they compose, and that a step of a running procedure is `exec` of it. -/

namespace Sys2Proof.Machine

variable {s t u : State} {f : Frame} {fs : List Frame} {j k : Nat}

theorem Runs.zero (s : State) : Runs 0 s s := rfl

/-- A run of one step more is that step and then the rest. -/
theorem Runs.succ_iff : Runs (k + 1) s t ↔ ∃ u, step s = .next u ∧ Runs k u t := by
  unfold Runs
  simp only [Host.Core.run]
  constructor
  · intro h
    split at h
    · next v hv => exact ⟨v, hv, h⟩
    · cases h
    · cases h
  · rintro ⟨u, hu, hr⟩
    have hu' : Sys2Proof.core.step s = .next u := hu
    rw [hu']
    exact hr

theorem Runs.succ (h : step s = .next u) (hr : Runs k u t) : Runs (k + 1) s t := Runs.succ_iff.2 ⟨u, h, hr⟩

theorem Runs.one (h : step s = .next t) : Runs 1 s t := Runs.succ h (Runs.zero t)

theorem Runs.trans (h : Runs j s u) (hr : Runs k u t) : Runs (j + k) s t := by
  induction j generalizing s with
  | zero => cases h; simpa using hr
  | succ j ih =>
    obtain ⟨v, hv, hj⟩ := Runs.succ_iff.1 h
    have := Runs.succ hv (ih hj)
    rwa [show j + k + 1 = j + 1 + k by omega] at this

/-- With no host action to come, a running sequencer makes one step of its innermost procedure. -/
theorem step_of_running (hh : s.host = []) (hp : s.pos = f :: fs) : step s = exec f.op s.elapse := by
  simp [step, move, hh, seqMove, hp]

/-- The same, where the step is known. -/
theorem Runs.step_running (hh : s.host = []) (hp : s.pos = f :: fs) (h : exec f.op s.elapse = .next u)
    (hr : Runs k u t) : Runs (k + 1) s t :=
  Runs.succ (by rw [step_of_running hh hp, h]) hr

/-- What a step that answers a next state can be: the idle sequencer waits, a `wait` is over, the sequencer makes a
step of its innermost procedure (the host's queue being `h` from then on), or the host acts. -/
inductive StepCase (s t : State) : Prop where
  | idle (hp : s.pos = []) (ht : t = s ∨ ∃ a r, s.host = a :: r ∧ t = { s with host := r })
  | waited (hb : s.regs.busy = false) (r : List HostAction) (hh : s.host = .wait :: r) (ht : t = { s with host := r })
  | sequencer (f : Frame) (fs : List Frame) (h : List HostAction) (hp : s.pos = f :: fs)
      (hq : h = s.host ∨ ∃ a, s.host = a :: h) (ht : exec f.op { s with host := h, timer := 0, progress := false } = .next t)
  | host (a : HostAction) (r : List HostAction) (hh : s.host = a :: r) (ht : hostStep { s with host := r } a = .next t)

theorem step_cases (h : step s = .next t) : StepCase s t := by
  simp only [step, move] at h
  split at h
  · next he =>
    unfold seqMove at h
    split at h
    · next f fs hp => exact .sequencer f fs s.host hp (.inl rfl) h
    · next hp => injection h with h; exact .idle hp (.inl h.symm)
  · next r he =>
    unfold seqMove at h
    split at h
    · next f fs hp => exact .sequencer f fs r hp (.inr ⟨_, he⟩) h
    · next hp => injection h with h; exact .idle hp (.inr ⟨_, r, he, h.symm⟩)
  · next r he =>
    split at h
    · unfold seqMove at h
      split at h
      · next f fs hp => exact .sequencer f fs s.host hp (.inl rfl) h
      · next hp => injection h with h; exact .idle hp (.inl h.symm)
    · next hb => injection h with h; exact .waited (by simpa using hb) r he h.symm
  · next a r _ _ he => exact .host a r he h

end Sys2Proof.Machine
end

