-- ==== Sys2Proof/Laws/TxnRun.lean ====
section
/-! SUPPORT. The run of a transaction under the oracle, in three parts: the header (T1 to T3), the tail (T4) and the end (T5, T6), and
the whole of it. -/

namespace Sys2Proof.Machine

/-- The operation `op`, called with these arguments under the descriptor `d`, is the transaction `Txn(div, out, tail)`. -/
def IsTxn (op : Instr) (a0 a1 a2 : Word) (d : Descriptor) (div : DivCode) (out : List Byte) (tail : Tail) : Prop :=
  ∀ u fs step k, u.pos = ⟨op, step, a0, a1, a2, k⟩ :: fs → u.desc = d → exec op u = txnStep div out tail u

theorem isTxn_rdid (a0 a1 a2 : Word) (d : Descriptor) : IsTxn .rdid a0 a1 a2 d 0 [0x9F] .read24 :=
  fun _ _ _ _ _ _ => rfl

theorem isTxn_spiWren (a0 a1 a2 : Word) (d : Descriptor) : IsTxn .spiWren a0 a1 a2 d d.wdiv [0x06] .none :=
  fun _ _ _ _ _ hd => by simp [exec, execSpiWren, hd]

theorem isTxn_spoll (a0 a1 a2 : Word) (d : Descriptor) :
    IsTxn .spoll a0 a1 a2 d (a2.setWidth 3) [0x05] (.poll (a0.setWidth 8) (a1.setWidth 8)) :=
  fun _ _ _ _ hp _ => by simp [exec, execSpoll, State.frame_of_running hp]

theorem isTxn_spiWrsr (v : Byte) (a0 a1 a2 : Word) (d : Descriptor) :
    IsTxn (.spiWrsr v) a0 a1 a2 d d.wdiv [0x01, v] .none :=
  fun _ _ _ _ _ hd => by simp [exec, execSpiWrsr, hd]

theorem isTxn_spiPp (b2 b1 b0 : Byte) (a0 a1 a2 : Word) (d : Descriptor) :
    IsTxn (.spiPp b2 b1 b0) a0 a1 a2 d d.wdiv [0x02, b2, b1, b0] (.data a0 a1) :=
  fun _ _ _ _ hp hd => by simp [exec, execSpiPp, State.frame_of_running hp, hd]

theorem isTxn_spiSe (b2 b1 b0 : Byte) (a0 a1 a2 : Word) (d : Descriptor) :
    IsTxn (.spiSe b2 b1 b0) a0 a1 a2 d d.ediv [0xD8, b2, b1, b0] .none :=
  fun _ _ _ _ _ hd => by simp [exec, execSpiSe, hd]

variable {op : Instr} {a0 a1 a2 : Word} {d : Descriptor} {div : DivCode} {out : List Byte} {tail : Tail}
  {s : State} {fs : List Frame} {k : Nat}

/-- One step of a transaction, from what `txnStep` answers. -/
theorem IsTxn.step_eq (hx : IsTxn op a0 a1 a2 d div out tail) {n : Nat} (hh : s.host = [])
    (hp : s.pos = ⟨op, n, a0, a1, a2, k⟩ :: fs) (hd : s.desc = d) : step s = txnStep div out tail s.elapse := by
  rw [step_of_running hh hp]
  exact hx s.elapse fs n k (by simpa using hp) (by simpa using hd)

/-- The byte list the sequencer still has to send, as a trace. -/
def sendTrace (base : Word) (bs : List Byte) : List PortAction := bs.flatMap fun b => [.dataWrite8 base b, .delay 10]

/-- Step T3a. -/
theorem IsTxn.t3a (hx : IsTxn op a0 a1 a2 d div out tail) (hh : s.host = []) (ho : s.part = none)
    (hp : s.pos = ⟨op, 3, a0, a1, a2, k⟩ :: fs) (hd : s.desc = d) (hw : windowOpen s.ctrl = true) :
    step s = .next { s with
      pos := ⟨op, 4, a0, a1, a2, k⟩ :: fs, timer := 0, progress := false
      trace := s.trace ++ [.dataWrite8 s.regs.bankBase (out.getD k 0)] } := by
  rw [hx.step_eq hh hp hd]
  have hp' : s.elapse.pos = ⟨op, 3, a0, a1, a2, k⟩ :: fs := by simpa using hp
  simp only [txnStep, State.stepNo_of_running hp', State.frame_of_running hp']
  rw [State.dataWrite8_open (by simpa using hw), thenNext_next, State.sent8_oracle (by simpa using ho),
    State.goto_eq (f := ⟨op, 3, a0, a1, a2, k⟩) (fs := fs) (by simpa using hp)]
  rfl

/-- Step T3b, with another byte to send. -/
theorem IsTxn.t3bMore (hx : IsTxn op a0 a1 a2 d div out tail) (hh : s.host = [])
    (hp : s.pos = ⟨op, 4, a0, a1, a2, k⟩ :: fs) (hd : s.desc = d) (hk : k + 1 < out.length) :
    step s = .next { s with
      pos := ⟨op, 3, a0, a1, a2, k + 1⟩ :: fs, timer := 10, progress := false, trace := s.trace ++ [.delay 10] } := by
  rw [hx.step_eq hh hp hd]
  simp [txnStep, State.stepNo, State.frame, State.elapse, hp, hk, State.gotoWith, State.setFrame, State.delay,
    State.emit, Config.tByte]

/-- Step T3b after the last byte. -/
theorem IsTxn.t3bLast (hx : IsTxn op a0 a1 a2 d div out tail) (hh : s.host = [])
    (hp : s.pos = ⟨op, 4, a0, a1, a2, k⟩ :: fs) (hd : s.desc = d) (hk : ¬ k + 1 < out.length) :
    step s = .next { s with
      pos := ⟨op, 5, a0, a1, a2, 0⟩ :: fs, timer := 10, progress := false, trace := s.trace ++ [.delay 10] } := by
  rw [hx.step_eq hh hp hd]
  simp [txnStep, State.stepNo, State.frame, State.elapse, hp, hk, State.gotoWith, State.setFrame, State.delay,
    State.emit, Config.tByte]

/-- Step T3: the bytes from `k` on are sent, each followed by its settle delay. -/
theorem IsTxn.send (hx : IsTxn op a0 a1 a2 d div out tail) (m : Nat) (hm : out.length = k + m + 1) (hh : s.host = [])
    (ho : s.part = none) (hp : s.pos = ⟨op, 3, a0, a1, a2, k⟩ :: fs) (hd : s.desc = d)
    (hw : windowOpen s.ctrl = true) :
    ∃ n, Runs n s { s with
      pos := ⟨op, 5, a0, a1, a2, 0⟩ :: fs, timer := 10, progress := false
      trace := s.trace ++ sendTrace s.regs.bankBase (out.drop k) } := by
  have hlt : k < out.length := by omega
  have hdrop : out.drop k = out.getD k 0 :: out.drop (k + 1) := by
    rw [List.drop_eq_getElem_cons hlt]; simp [hlt]
  induction m generalizing s k with
  | zero =>
    refine ⟨2, Runs.succ (hx.t3a hh ho hp hd hw) (Runs.one ?_)⟩
    refine (hx.t3bLast (k := k) (fs := fs) (s := { s with
      pos := ⟨op, 4, a0, a1, a2, k⟩ :: fs, timer := 0, progress := false
      trace := s.trace ++ [.dataWrite8 s.regs.bankBase (out.getD k 0)] }) hh rfl hd (by omega)).trans ?_
    simp [hdrop, List.drop_eq_nil_of_le (show out.length ≤ k + 1 by omega), sendTrace]
  | succ m ih =>
    let u1 : State := { s with
      pos := ⟨op, 4, a0, a1, a2, k⟩ :: fs, timer := 0, progress := false
      trace := s.trace ++ [.dataWrite8 s.regs.bankBase (out.getD k 0)] }
    let u2 : State := { s with
      pos := ⟨op, 3, a0, a1, a2, k + 1⟩ :: fs, timer := 10, progress := false
      trace := s.trace ++ [.dataWrite8 s.regs.bankBase (out.getD k 0)] ++ [.delay 10] }
    have s1 : step s = .next u1 := hx.t3a hh ho hp hd hw
    have s2 : step u1 = .next u2 := hx.t3bMore (s := u1) hh rfl hd (by omega)
    have hlt' : k + 1 < out.length := by omega
    obtain ⟨n, hn⟩ := ih (k := k + 1) (s := u2) (by omega) hh ho rfl hd hw hlt'
      (by rw [List.drop_eq_getElem_cons hlt']; simp [hlt'])
    refine ⟨n + 1 + 1, Runs.succ s1 (Runs.succ s2 ?_)⟩
    simpa [u2, hdrop, sendTrace] using hn

/-- Steps T1 to T3: chip-select goes low and the header is sent. -/
theorem IsTxn.header (hx : IsTxn op a0 a1 a2 d div out tail) (hne : out ≠ []) (hh : s.host = []) (ho : s.part = none)
    (hp : s.pos = ⟨op, 1, a0, a1, a2, 0⟩ :: fs) (hd : s.desc = d) :
    ∃ n, Runs n s { s with
      pos := ⟨op, 5, a0, a1, a2, 0⟩ :: fs, timer := 10, progress := false
      work.div := div, ctrl := controlWord div .low .userMode
      trace := s.trace ++ ([.ctrlWrite (controlWord div .low .userMode), .delay 100] ++
        sendTrace s.regs.bankBase out) } := by
  let u1 : State := { s with
      pos := ⟨op, 2, a0, a1, a2, 0⟩ :: fs, timer := 0, progress := false
      work.div := div, ctrl := controlWord div .low .userMode
      trace := s.trace ++ [.ctrlWrite (controlWord div .low .userMode)] }
  let u2 : State := { s with
      pos := ⟨op, 3, a0, a1, a2, 0⟩ :: fs, timer := 100, progress := false
      work.div := div, ctrl := controlWord div .low .userMode
      trace := s.trace ++ [.ctrlWrite (controlWord div .low .userMode), .delay 100] }
  have s1 : step s = .next u1 := by
    rw [hx.step_eq hh hp hd]
    simp only [txnStep, State.stepNo, State.frame, State.elapse, hp]
    rw [State.ctrlWrite_oracle (by simpa using ho)]
    simp [State.goto, State.setFrame, State.frame, State.emit, u1]
  have s2 : step u1 = .next u2 := by
    rw [hx.step_eq (s := u1) (k := 0) (fs := fs) (n := 2) hh rfl hd]
    simp [txnStep, State.stepNo, State.frame, State.elapse, State.gotoWith, State.setFrame, State.delay, State.emit,
      Config.tCtrl, u1, u2]
  obtain ⟨m, hm⟩ : ∃ m, out.length = 0 + m + 1 :=
    ⟨out.length - 1, by have := List.length_pos_iff.2 hne; omega⟩
  obtain ⟨n, hn⟩ := hx.send (s := u2) (k := 0) m hm hh ho rfl hd (by simp [u2])
  refine ⟨n + 1 + 1, Runs.succ s1 (Runs.succ s2 ?_)⟩
  simpa [u2, List.append_assoc] using hn

/-- Steps T5 and T6 and the end: chip-select goes high and the procedure returns. -/
theorem IsTxn.close (hx : IsTxn op a0 a1 a2 d div out tail) (hh : s.host = []) (ho : s.part = none)
    (hp : s.pos = ⟨op, 6, a0, a1, a2, k⟩ :: fs) (hd : s.desc = d) :
    ∃ t, Runs 3 s t ∧
      t = { s with
        pos := s.finish.pos, regs := s.finish.regs, timer := 0, progress := false
        ctrl := controlWord s.work.div .high .userMode
        trace := s.trace ++ [.ctrlWrite (controlWord s.work.div .high .userMode), .delay 100] } := by
  let w := controlWord s.work.div .high .userMode
  let u1 : State := { s with
      pos := ⟨op, 7, a0, a1, a2, k⟩ :: fs, timer := 0, progress := false, ctrl := w
      trace := s.trace ++ [.ctrlWrite w] }
  let u2 : State := { s with
      pos := ⟨op, 8, a0, a1, a2, k⟩ :: fs, timer := 100, progress := false, ctrl := w
      trace := s.trace ++ [.ctrlWrite w, .delay 100] }
  have s1 : step s = .next u1 := by
    rw [hx.step_eq hh hp hd]
    simp only [txnStep, State.stepNo, State.frame, State.elapse, hp]
    rw [State.ctrlWrite_oracle (by simpa using ho)]
    simp [State.goto, State.setFrame, State.frame, State.emit, u1, w]
  have s2 : step u1 = .next u2 := by
    rw [hx.step_eq (s := u1) (k := k) (fs := fs) (n := 7) hh rfl hd]
    simp [txnStep, State.stepNo, State.frame, State.elapse, State.goto, State.setFrame, State.delay, State.emit,
      Config.tCtrl, u1, u2]
  refine ⟨_, Runs.succ s1 (Runs.succ s2 (Runs.one ?_)), rfl⟩
  rw [hx.step_eq (s := u2) (k := k) (fs := fs) (n := 8) hh rfl hd]
  cases fs <;>
    simp [txnStep, State.stepNo, State.frame, State.elapse, State.finish, State.complete, hp, u2, w]

/-! ### The tails -/

/-- What no part of a transaction changes. -/
structure Kept (s t : State) : Prop where
  regs : t.regs = s.regs
  desc : t.desc = s.desc
  prot : t.prot = s.prot
  buf : t.buf = s.buf
  clkCfg : t.clkCfg = s.clkCfg
  part : t.part = s.part
  par : t.par = s.par
  host : t.host = s.host
  hostData : t.hostData = s.hostData
  work : t.work = { s.work with b := t.work.b, word := t.work.word, div := t.work.div }

theorem Kept.trans {s t u : State} (h : Kept s t) (h' : Kept t u) : Kept s u where
  regs := h'.regs.trans h.regs
  desc := h'.desc.trans h.desc
  prot := h'.prot.trans h.prot
  buf := h'.buf.trans h.buf
  clkCfg := h'.clkCfg.trans h.clkCfg
  part := h'.part.trans h.part
  par := h'.par.trans h.par
  host := h'.host.trans h.host
  hostData := h'.hostData.trans h.hostData
  work := by rw [h'.work, h.work]

/-- The tail has run: the port actions `acts` were made, `n` answers drawn, and the position is `p`. -/
structure TailRun (u v : State) (acts : List PortAction) (n : Nat) (p : List Frame) : Prop where
  pos : v.pos = p
  trace : v.trace = u.trace ++ acts
  answers : v.answers = u.answers.drop n
  draws : v.draws = u.draws + n
  kept : Kept u v
  ctrl : v.ctrl = u.ctrl
  div : v.work.div = u.work.div

variable {u : State}

/-- Tail `NONE` (R82). -/
theorem IsTxn.tailNone (hx : IsTxn op a0 a1 a2 d div out .none) (hp : u.pos = ⟨op, 5, a0, a1, a2, k⟩ :: fs)
    (hh : u.host = []) (hd : u.desc = d) :
    ∃ v, Runs 1 u v ∧ TailRun u v [] 0 (⟨op, 6, a0, a1, a2, k⟩ :: fs) := by
  refine ⟨{ u with pos := ⟨op, 6, a0, a1, a2, k⟩ :: fs, timer := 0, progress := false }, Runs.one ?_, ?_⟩
  · rw [hx.step_eq hh hp hd]
    simp [txnStep, State.stepNo, State.frame, State.elapse, hp, tailStep, State.goto, State.setFrame]
  · constructor <;> (try simp)
    constructor <;> simp

/-- Tail `READ24` with a listed answer (R84). -/
theorem IsTxn.tailRead24 (hx : IsTxn op a0 a1 a2 d div out .read24) (hp : u.pos = ⟨op, 5, a0, a1, a2, k⟩ :: fs)
    (hh : u.host = []) (hd : u.desc = d) (ho : u.part = none) (hw : windowOpen u.ctrl = true) {w : Word}
    {rest : List Word} (ha : u.answers = w :: rest) :
    ∃ v, Runs 1 u v ∧ v.work.word = w ∧
      TailRun u v [.dataRead32 u.regs.bankBase w] 1 (⟨op, 6, a0, a1, a2, k⟩ :: fs) := by
  refine ⟨{ u with
    pos := ⟨op, 6, a0, a1, a2, k⟩ :: fs, timer := 0, progress := false, work.word := w, answers := rest
    draws := u.draws + 1, trace := u.trace ++ [.dataRead32 u.regs.bankBase w] }, Runs.one ?_, rfl, ?_⟩
  · rw [hx.step_eq hh hp hd]
    simp [txnStep, State.stepNo, State.frame, State.elapse, hp, tailStep, State.goto, State.setFrame,
      State.dataRead32, hw, State.shiftedInWord, State.afterShiftInWord, ho, State.drawn, ha, State.afterDraw,
      State.emit]
  · constructor <;> (try simp [ha])
    constructor <;> simp

/-- Tail `POLL` with listed answers that end it (R83). -/
theorem IsTxn.tailPoll {mask want : Byte} (hx : IsTxn op a0 a1 a2 d div out (.poll mask want)) {good : Word}
    (hg : answerByte good &&& mask = want) {rest : List Word} (bad : List Word)
    (hp : u.pos = ⟨op, 5, a0, a1, a2, k⟩ :: fs) (hh : u.host = []) (hd : u.desc = d) (ho : u.part = none)
    (hw : windowOpen u.ctrl = true) (ha : u.answers = bad ++ good :: rest)
    (hb : ∀ w ∈ bad, answerByte w &&& mask ≠ want) :
    ∃ n v, Runs n u v ∧ TailRun u v (pollTrace u.regs.bankBase (bad ++ [good])) (bad ++ [good]).length
      (⟨op, 6, a0, a1, a2, k⟩ :: fs) := by
  induction bad generalizing u with
  | nil =>
    simp only [List.nil_append] at ha
    refine ⟨1, { u with
      pos := ⟨op, 6, a0, a1, a2, k⟩ :: fs, timer := 0, progress := false, work.b := answerByte good, answers := rest
      draws := u.draws + 1, trace := u.trace ++ [.dataRead8 u.regs.bankBase (answerByte good)] }, Runs.one ?_, ?_⟩
    · rw [hx.step_eq hh hp hd]
      simp only [answerByte] at hg
      simp [txnStep, State.stepNo, State.frame, State.elapse, hp, tailStep, State.goto, State.setFrame,
        State.dataRead8, hw, State.shiftedIn, State.afterShiftIn, ho, State.drawn, ha, State.afterDraw, State.emit,
        pollMet, hg, answerByte]
    · constructor <;> (try simp [ha, pollTrace])
      constructor <;> simp
  | cons b bs ih =>
    simp only [List.cons_append] at ha
    let v : State := { u with
      timer := 0, progress := false, work.b := answerByte b, answers := bs ++ good :: rest, draws := u.draws + 1
      trace := u.trace ++ [.dataRead8 u.regs.bankBase (answerByte b)] }
    obtain ⟨n, w, hr, hT⟩ := ih (u := v) hp hh hd ho hw rfl fun x hx => hb x (List.mem_cons_of_mem _ hx)
    refine ⟨n + 1, w, Runs.succ (u := v) ?_ hr, ?_⟩
    · rw [hx.step_eq hh hp hd]
      have hbad : answerByte b &&& mask ≠ want := hb b List.mem_cons_self
      simp only [answerByte] at hbad
      simp [v, txnStep, State.stepNo, State.frame, State.elapse, hp, tailStep, State.dataRead8, hw, State.shiftedIn,
        State.afterShiftIn, ho, State.drawn, ha, State.afterDraw, State.emit, pollMet, hbad, answerByte]
    · refine ⟨hT.pos, ?_, ?_, ?_, Kept.trans ?_ hT.kept, hT.ctrl, hT.div⟩
      · rw [hT.trace]; simp [v, pollTrace]
      · rw [hT.answers]; simp [v, ha]
      · rw [hT.draws]; simp [v]; omega
      · constructor <;> simp [v]

/-- The data bytes of a page program from byte `k` on (R122 steps G8 to G10). -/
theorem IsTxn.tailData {src cnt : Word} (hx : IsTxn op a0 a1 a2 d div out (.data src cnt)) (m : Nat)
    (hk : k + m = cnt.toNat) (hp : u.pos = ⟨op, 5, a0, a1, a2, k⟩ :: fs) (hh : u.host = []) (hd : u.desc = d)
    (ho : u.part = none) (hw : windowOpen u.ctrl = true) :
    ∃ n v j, Runs n u v ∧
      TailRun u v (dataTrace u.regs.bankBase u.buf src k m) 0 (⟨op, 6, a0, a1, a2, j⟩ :: fs) := by
  induction m generalizing k u with
  | zero =>
    refine ⟨1, { u with pos := ⟨op, 6, a0, a1, a2, k⟩ :: fs, timer := 0, progress := false }, k, Runs.one ?_, ?_⟩
    · rw [hx.step_eq hh hp hd]
      have hkn : k = cnt.toNat := by omega
      simp [txnStep, State.stepNo, State.frame, State.elapse, hp, tailStep, State.goto, State.setFrame, hkn]
    · constructor <;> (try simp [dataTrace])
      constructor <;> simp
  | succ m ih =>
    let a := src + BitVec.ofNat 32 k
    let b := Memory.read u.buf a.toNat
    let v1 : State := { u with
      pos := ⟨op, 9, a0, a1, a2, k⟩ :: fs, timer := 0, progress := false, work.b := b
      trace := u.trace ++ [.bufRead8 a b] }
    let v2 : State := { v1 with
      pos := ⟨op, 10, a0, a1, a2, k⟩ :: fs, trace := v1.trace ++ [.dataWrite8 u.regs.bankBase b] }
    let v3 : State := { v2 with
      pos := ⟨op, 5, a0, a1, a2, k + 1⟩ :: fs, timer := 10, trace := v2.trace ++ [.delay 10] }
    obtain ⟨n, w, j, hr, hT⟩ := ih (k := k + 1) (u := v3) (by omega) rfl hh hd ho hw
    refine ⟨n + 1 + 1 + 1, w, j, Runs.succ (u := v1) ?_ (Runs.succ (u := v2) ?_ (Runs.succ (u := v3) ?_ hr)), ?_⟩
    · rw [hx.step_eq hh hp hd]
      have hkn : ¬ k = cnt.toNat := by omega
      simp [v1, txnStep, State.stepNo, State.frame, State.elapse, hp, tailStep, State.goto, State.setFrame, hkn,
        State.bufRead8, State.emit, a, b]
    · rw [hx.step_eq (s := v1) (k := k) (fs := fs) (n := 9) hh rfl hd]
      simp [v1, v2, txnStep, State.stepNo, State.frame, State.elapse, State.goto, State.setFrame, State.dataWrite8,
        State.emit, hw, ho]
    · rw [hx.step_eq (s := v2) (k := k) (fs := fs) (n := 10) hh rfl hd]
      simp [v3, v2, v1, txnStep, State.stepNo, State.frame, State.elapse, State.gotoWith, State.delay,
        State.setFrame, State.emit, Config.tByte]
    · refine ⟨hT.pos, ?_, hT.answers, hT.draws, Kept.trans ?_ hT.kept, hT.ctrl, hT.div⟩
      · rw [hT.trace]; simp [v3, v2, v1, dataTrace, a, b]
      · constructor <;> simp [v3, v2, v1]

/-! ### The whole transaction -/

/-- A transaction whose tail runs finishes, with the trace of R81. -/
theorem IsTxn.run (hx : IsTxn op a0 a1 a2 d div out tail) (hne : out ≠ []) (hh : s.host = []) (ho : s.part = none)
    (hp : s.pos = Frame.start op a0 a1 a2 :: fs) (hd : s.desc = d) {acts : List PortAction} {n : Nat}
    {P : WorkRegs → Prop}
    (htail : ∀ u : State, u.pos = ⟨op, 5, a0, a1, a2, 0⟩ :: fs → u.host = [] → u.part = none → u.desc = d →
      windowOpen u.ctrl = true → u.answers = s.answers → u.buf = s.buf → u.regs = s.regs →
      ∃ m v j, Runs m u v ∧ TailRun u v acts n (⟨op, 6, a0, a1, a2, j⟩ :: fs) ∧ P v.work) :
    ∃ m t, Runs (m + 2) s t ∧ P t.work ∧
      Finished s t (txnTrace s.regs.bankBase div out acts) (controlWord div .high .userMode) n := by
  obtain ⟨n1, h1⟩ := hx.header hne hh ho hp hd
  obtain ⟨n2, v, j, h2, hT, hPv⟩ := htail { s with
      pos := ⟨op, 5, a0, a1, a2, 0⟩ :: fs, timer := 10, progress := false
      work.div := div, ctrl := controlWord div .low .userMode
      trace := s.trace ++ ([.ctrlWrite (controlWord div .low .userMode), .delay 100] ++
        sendTrace s.regs.bankBase out) } rfl hh ho hd (windowOpen_low div) rfl rfl rfl
  obtain ⟨t, h3, ht⟩ := hx.close (s := v) (k := j) (fs := fs) (hT.kept.host.trans hh) (hT.kept.part.trans ho) hT.pos
    (hT.kept.desc.trans hd)
  have hdiv : v.work.div = div := hT.div
  refine ⟨n1 + n2 + 1, t, by simpa using (h1.trans h2).trans h3, by rw [ht]; exact hPv, ?_⟩
  subst ht
  exact {
    trace := by simp [hT.trace, hdiv, txnTrace, sendTrace]
    pos := State.finish_pos_tail hp hT.pos
    regs := State.finish_regs_tail hp hT.pos hT.kept.regs
    work := hT.kept.work
    ctrl := by simp [hdiv]
    answers := hT.answers
    draws := hT.draws
    desc := hT.kept.desc
    prot := hT.kept.prot
    buf := hT.kept.buf
    clkCfg := hT.kept.clkCfg
    part := hT.kept.part
    par := hT.kept.par
    host := hT.kept.host
    hostData := hT.kept.hostData }

end Sys2Proof.Machine
end

