-- ==== Sys2Proof/Tests/Slice0.lean ====
section
/-! SUPPORT. Tests of this model against the specification's own words and vectors, and for every obligation with
hypotheses a witness: a concrete state and operands that meet all of them together. -/

namespace Sys2Proof.Tests

open Sys2Proof Sys2Proof.Machine

/-! ### States to test on -/

/-- The W25X16 row with the ceilings of 95_test_vectors.md section 3. -/
def row : PartRow where
  id := 0x1530EF
  capacity := 0x200000
  sectors := 32
  eraseSize := 0x10000
  dummy := 0
  writeCeiling := 50
  eraseCeiling := 20
  readCeiling := 33

/-- The parameters of 95_test_vectors.md section 3: `EffFreq(c0) = 200`, `c0` being 0xC0 here. -/
def params : Params where
  table := [row]
  freqs := [(0xC0, 200)]

/-- Right after reset, with those parameters. -/
def start : State := { State.reset with par := params, clkCfg := 0xC0 }

/-- The descriptor program P1 ends with. -/
def identified : Descriptor where
  id := 0x1530EF
  size := 0x200000
  nsect := 32
  secsz := 0x10000
  wdiv := 6
  ediv := 3
  rdiv := 5
  dummy := 0
  unknown := false
  calSat := false
  identified := true

/-- A known part, idle. -/
def ready : State := { start with desc := identified, ctrl := 0x00000505 }

/-- A frame. -/
def frame (op : Instr) (n : Nat) (a0 a1 a2 : Word) : Frame where
  op := op
  step := n
  a0 := a0
  a1 := a1
  a2 := a2
  k := 0

/-- A known part, busy with these frames. -/
def busyAt (fs : List Frame) : State := { ready with pos := fs, regs.busy := true }

/-- The same inside an open chip-select window at divisor code 6, the part about to give these answers. -/
def inWindowAt (fs : List Frame) (ws : List Word) : State :=
  { busyAt fs with ctrl := 0x00000603, answers := ws }

/-- A command issued with these operands, no answers but these. -/
def issued (op : Instr) (a0 a1 a2 : Word) (ws : List Word) : State :=
  { busyAt [frame op 1 0 0 0] with
    work := { WorkRegs.reset with a0 := a0, a1 := a1, a2 := a2 }
    answers := ws }

/-- The state a step answers, if it answers one. -/
def after (r : Result) : Option State :=
  match r with
  | .next s => some s
  | _ => none

/-- A property of the state a step answers. -/
def nextHas (r : Result) (p : State → Bool) : Bool :=
  match r with
  | .next s => p s
  | _ => false

/-! ### Well-formedness refuses ill-formed terms -/

theorem test_wf_no_bytes : transactionWf [] = false := by decide
theorem test_wf_unknown_opcode : transactionWf [0xAB] = false := by decide
theorem test_wf_w1_too_long : transactionWf [0x06, 0x00] = false := by decide
theorem test_wf_w2_too_short : transactionWf [0x01] = false := by decide
theorem test_wf_w4_too_short : transactionWf [0xD8, 0x00, 0x00] = false := by decide
theorem test_wf_w4n_too_short : transactionWf [0x02, 0x00, 0x00] = false := by decide
theorem test_wf_accepts : transactionWf [0x9F] ∧ transactionWf [0x01, 0x9C] ∧ transactionWf [0xD8, 0x1F, 0, 0] ∧
    transactionWf [0x02, 0x01, 0x23, 0x45] := by decide
theorem test_wf_offset_unaligned : offsetWf 0x3E = false := by decide
theorem test_wf_offset_beyond : (HostAction.write 0x40 0).wf = false := by decide
theorem test_wf_row_too_big : PartRow.fits { row with sectors := 33 } = false := by decide
theorem test_wf_table_needs_w25x16 : tableWf [{ row with id := 0x123456 }] = false := by decide
theorem test_wf_table_ids_unique : tableWf [row, row] = false := by decide
theorem test_wf_table : tableWf params.table = true := by decide
theorem test_wf_sectors : sectorsWf params.table 31 = false ∧ sectorsWf params.table 32 = true := by decide

/-! ### Decoding: words written out from 30_encoding.md R66, R67 -/

theorem test_decode_ident : decodeTableWord 32 0x00000001 = some .ident := by decide
theorem test_decode_wren : decodeTableWord 32 0x00000002 = some .wren := by decide
theorem test_decode_wrsr : decodeTableWord 32 0x00000003 = some .wrsr := by decide
theorem test_decode_pp : decodeTableWord 32 0x00000004 = some .pp := by decide
theorem test_decode_se : decodeTableWord 32 0x00000005 = some .se := by decide
/-- Bits 31:8 are ignored (95_test_vectors.md section 2.8). -/
theorem test_decode_reset : decodeTableWord 32 0xABCDEF06 = some .reset := by decide
theorem test_decode_erase : decodeTableWord 32 0x00000007 = some .erase := by decide
theorem test_decode_wbuf : decodeTableWord 32 0x00000008 = some .wbuf := by decide
theorem test_decode_rbuf : decodeTableWord 32 0x00000009 = some .rbuf := by decide
theorem test_decode_illegal : decodeTableWord 32 0x00000000 = none ∧ decodeTableWord 32 0x0000000A = none ∧
    decodeTableWord 32 0x000000FF = none := by decide
theorem test_decode_rdid : decodeTableWord 8 0x9F = some .rdid := by decide
theorem test_decode_spi_wren : decodeTableWord 8 0x06 = some .spiWren := by decide
theorem test_decode_spoll : decodeTableWord 8 0x05 = some .spoll := by decide
theorem test_decode_spi_wrsr : decode .wire [0x01, 0x9C] = some (.spiWrsr 0x9C, []) := by decide
theorem test_decode_spi_pp :
    decode .wire [0x02, 0x01, 0x23, 0x45, 0xAA] = some (.spiPp 0x01 0x23 0x45, [0xAA]) := by decide
theorem test_decode_spi_se : decode .wire [0xD8, 0x1F, 0x02, 0x03] = some (.spiSe 0x1F 0x02 0x03, []) := by decide
theorem test_decode_other_opcode : decodeTableWord 8 0xAB = none ∧ decodeTableWord 8 0x03 = none := by decide
theorem test_encode_command_word : encode .rbuf = [0x09, 0x00, 0x00, 0x00] ∧ encodeCommand .rbuf = 0x00000009 := by
  decide

/-! ### Operand arithmetic: 95_test_vectors.md sections 2.1, 2.2, 2.4, 2.6 -/

theorem test_control_words : controlWord 3 .low .userMode = 0x00000303 ∧ controlWord 7 .high .fastRead = 0x00000705 ∧
    controlWord 7 .low .normalRead = 0x00000700 ∧ controlWord 7 .high .normalWrite = 0x00000706 := by decide

/-- Exactly on the ceiling at code 7, one unit under it, rounding down (D14), and the slowest code. -/
theorem test_calibrate : calibrate 200 100 = (7, false) ∧ calibrate 200 99 = (6, false) ∧
    calibrate 200 33 = (5, false) ∧ calibrate 200 12 = (0, false) := by decide
theorem test_calibrate_saturates : calibrate 200 11 = (0, true) ∧ calibrate 0 0 = (7, false) ∧
    calibrate 266 33 = (4, false) := by decide
theorem test_address_bytes :
    (addrHigh 0x0001FA, addrMid 0x0001FA, addrLow 0x0001FA) = (0x00#8, 0x01#8, 0xFA#8) ∧
    addrHigh 0x01000000 = 0x00 := by decide
theorem test_chunks : chunkLength 0xF0 0x220 = 16 ∧ chunkLength 0x100 0x101 = 256 ∧ chunkLength 0x1FF 2 = 1 ∧
    chunkLength 0x10 5 = 5 := by decide
theorem test_range_check : eraseRangeInvalid 3 2 ∧ eraseRangeInvalid 0xFFFFFFFF 5 ∧
    eraseRangeInvalid 0x80000000 0x7FFFFFFF ∧ eraseRangeInvalid 0 0xFFFFFFFF ∧ eraseRangeInvalid 4 4 = false := by
  decide
theorem test_sector_start :
    State.sectorStart { ready with regs.bankBase := 0x20000000 } 31 = 0x201F0000 := by decide
theorem test_divs_word : divsWord identified = 0x00000536 ∧ dflagsWord identified = 0x00000004 := by decide

/-! ### One step of each operation, against the steps of its rule -/

/-- R111 step I2: bits 31:24 of the word read are not part of the id. -/
theorem test_ident_takes_24_bits :
    nextHas (exec .ident { busyAt [frame .ident 2 0 0 0] with work := { WorkRegs.reset with word := 0xAB1530EF } })
      (fun t => t.desc.id = 0x001530EF) = true := by decide
/-- R111 step I8 with the ceilings of section 3: `DIVS = 0x00000536`. -/
theorem test_ident_calibrates :
    nextHas (exec .ident { busyAt [frame .ident 8 0 0 0] with work := { WorkRegs.reset with word := 0xC0 } })
      (fun t => divsWord t.desc = 0x00000536 ∧ t.desc.calSat = false) = true := by decide
/-- R120 step E2: the poll for WEL at `WDIV`. -/
theorem test_wren_polls_wel :
    nextHas (exec .wren (busyAt [frame .wren 2 0 0 0]))
      (fun t => t.pos = [frame .spoll 1 0x02 0x02 6, frame .wren 2 0 0 0]) = true := by decide
/-- R121 step S2: only bits 7:0 of the operand are the status value. -/
theorem test_wrsr_sends_low_byte :
    nextHas (exec .wrsr (busyAt [frame .wrsr 2 0x19C 0 0])) (fun t => t.frame.op = .spiWrsr 0x9C) = true := by decide
/-- R122, R68: bits 31:24 of the offset are dropped; the buffer address and the count go on. -/
theorem test_pp_address :
    nextHas (exec .pp (busyAt [frame .pp 2 0x01012345 0x40000000 3]))
      (fun t => t.frame = frame (.spiPp 0x01 0x23 0x45) 1 0x40000000 3 0) = true := by decide
/-- R123 step X3, R125: the poll for WIP runs at `EDIV`. -/
theorem test_se_polls_at_ediv :
    nextHas (exec .se (busyAt [frame .se 3 0 0 0])) (fun t => t.frame = frame .spoll 1 0x01 0x00 3) = true := by decide
/-- R124: `CW 0x505`. -/
theorem test_reset_word :
    nextHas (exec .reset (busyAt [frame .reset 1 0 0 0]))
      (fun t => t.ctrl = 0x00000505 ∧ t.trace = [.ctrlWrite 0x00000505]) = true := by decide
/-- R140 step A2, section 2.5: 3 to 2 completes with code 1 and an empty trace. -/
theorem test_erase_rejects :
    nextHas (exec .erase { busyAt [frame .erase 2 0 0 0] with work := { WorkRegs.reset with a0 := 3, a1 := 2 } })
      (fun t => statusWord t.regs = 0x00000012 ∧ t.trace = []) = true := by decide
/-- R140 step A5: a protected sector is skipped. -/
theorem test_erase_skips :
    nextHas (exec .erase { busyAt [frame .erase 5 0 0 0] with
        work := { WorkRegs.reset with i := 5 }, prot := (List.replicate 32 false).set 5 true })
      (fun t => t.pos = [frame .erase 7 0 0 0]) = true := by decide
/-- R145 step B1: the offset is the destination less `BANK_BASE`. -/
theorem test_wbuf_offset :
    nextHas (exec .wbuf { busyAt [frame .wbuf 1 0 0 0] with
        regs := { HostRegs.reset with bankBase := 0x20000000 }
        work := { WorkRegs.reset with a0 := 0x40000000, a1 := 0x200001FA, a2 := 18 } })
      (fun t => t.work.off = 0x1FA ∧ t.work.src = 0x40000000 ∧ t.work.cnt = 18) = true := by decide
/-- R147 step C3: the second byte stored is bits 15:8 of the word. -/
theorem test_rbuf_little_endian :
    nextHas (exec .rbuf { busyAt [frame .rbuf 5 0 0 0] with
        work := { WorkRegs.reset with dst := 0x40001000, word := 0x13121110 } })
      (fun t => Memory.read t.buf 0x40001001 = 0x11) = true := by decide
/-- R100: code 0, chip-select low, user mode. -/
theorem test_rdid_opens_window :
    nextHas (exec .rdid (busyAt [frame .rdid 1 0 0 0])) (fun t => t.ctrl = 0x00000003) = true := by decide
/-- R81 step T3: the byte sent is 0x06. -/
theorem test_spi_wren_sends :
    nextHas (exec .spiWren (inWindowAt [frame .spiWren 3 0 0 0] [])) (fun t => t.trace = [.dataWrite8 0 0x06]) = true := by
  decide
/-- R83: 0x01 does not meet mask 0x02, want 0x02; the poll reads on. 0x03 does. -/
theorem test_spoll_reads_on :
    nextHas (exec .spoll (inWindowAt [frame .spoll 5 0x02 0x02 6] [0x01])) (fun t => t.frame.step = 5) = true := by decide
theorem test_spoll_ends :
    nextHas (exec .spoll (inWindowAt [frame .spoll 5 0x02 0x02 6] [0x03])) (fun t => t.frame.step = 6) = true := by decide
/-- R121: the second byte is the status value. -/
theorem test_spi_wrsr_second_byte :
    nextHas (exec (.spiWrsr 0x9C) (inWindowAt [{ frame (.spiWrsr 0x9C) 3 0 0 0 with k := 1 }] []))
      (fun t => t.trace = [.dataWrite8 0 0x9C]) = true := by decide
/-- R122 step G9: the byte is fetched from the buffer at `src + k`. -/
theorem test_spi_pp_fetches :
    nextHas (exec (.spiPp 0 1 0xFA) { inWindowAt [{ frame (.spiPp 0 1 0xFA) 5 0x40000000 3 0 with k := 1 }] [] with
        buf := [(0x40000000, 0x00), (0x40000001, 0x5A)] })
      (fun t => t.trace = [.bufRead8 0x40000001 0x5A]) = true := by decide
/-- R123 step X2, R42: the first address byte is the high one. -/
theorem test_spi_se_high_byte_first :
    nextHas (exec (.spiSe 0x1F 0x02 0x03) (inWindowAt [{ frame (.spiSe 0x1F 0x02 0x03) 3 0 0 0 with k := 1 }] []))
      (fun t => t.trace = [.dataWrite8 0 0x1F]) = true := by decide
/-- Section 2.8: an illegal command leaves `STATUS = 0x00000032`; a running one reads 0x00000001. -/
theorem test_illegal_status :
    nextHas (step { ready with host := [.write 0x00 0x0000000B] })
      (fun t => readReg t .status = 0x00000032 ∧ t.trace = []) = true := by decide
theorem test_running_status :
    nextHas (step { ready with host := [.write 0x00 0x00000002] }) (fun t => readReg t .status = 0x00000001) = true := by
  decide
/-- R182 and the first step after reset of a placed IDENT: it calls the read-ID transaction. -/
theorem test_placed_ident :
    nextHas (step (State.reset.withFetchWord 32 0x00000001)) (fun t => t.frame = frame .rdid 1 0 0 0) = true := by decide

/-! ### Witnesses: the hypotheses of each obligation, met together -/

theorem wel_one : PollAnswers 0x02 0x02 [0x02] := ⟨[], 0x02, rfl, by simp, by decide⟩
/-- Two reads: busy, then not. -/
theorem wip_two : PollAnswers 0x01 0x00 [0x03, 0x00] := ⟨[0x03], 0x00, rfl, by simp [answerByte], by decide⟩
theorem wip_one : PollAnswers 0x01 0x00 [0x00] := ⟨[], 0x00, rfl, by simp, by decide⟩

/-- The answers of one operation of two polls. -/
def polls : TwoPolls where
  wel := [0x02]
  wip := [0x03, 0x00]

theorem polls_good : polls.Good := ⟨wel_one, wip_two⟩

theorem test_witness_DecodeAndEncodeAgree :
    (Instr.spiPp 0xFF 0x00 0x80).space = .wire ∧ Instr.rbuf.space = .command := by decide

theorem test_witness_IllegalCodesAreThoseOfTheRule :
    decodeCommand 0x00 = none ∧ decodeCommand 0x01 ≠ none ∧ decodeCommand 0x09 ≠ none ∧ decodeCommand 0x0A = none ∧
    decodeCommand 0xFF = none := by decide

/-- One action for each port and direction. -/
theorem test_witness_PortWidthsAreFixed :
    (PortAction.access (.ctrlWrite 3)).map BusAccess.space = some .ctl ∧
    (PortAction.access (.clkCfgRead 3)).map BusAccess.space = some .scu ∧
    (PortAction.access (.bufWrite8 0 3)).map BusAccess.space = some .buf ∧
    (PortAction.access (.dataWrite8 0 3)).map BusAccess.write = some true ∧
    (PortAction.access (.winRead8 0 3)).map BusAccess.write = some false ∧
    (PortAction.access (.winRead32 0 3)).map BusAccess.write = some false := ⟨rfl, rfl, rfl, rfl, rfl, rfl⟩

/-- An offset just under and just on a page boundary, and the greatest offset. -/
theorem test_witness_ChunkStaysInItsPage :
    (1#32 ≠ 0 ∧ chunkLength 0xFF 1 = 1) ∧ (0x200#32 ≠ 0 ∧ chunkLength 0xFF 0x200 = 1) ∧
    (0x200#32 ≠ 0 ∧ chunkLength 0x100 0x200 = 256) ∧ (9#32 ≠ 0 ∧ chunkLength 0xFFFFFFFF 9 = 1) := by decide

theorem test_witness_CalibrationFindsTheFastestAllowedClock :
    (calibrate 200 12).2 = false ∧ 200 / divisor 0 ≤ 12 ∧ (calibrate 200 11).2 = true := by decide

/-- Every state built on `ready` whose position, control word and busy bit agree keeps the invariant. -/
theorem ready_inv : State.Inv ready := by constructor <;> decide

theorem test_witness_SectorsLieInsideThePart :
    State.Inv ready ∧ (31#32).toNat < ready.desc.nsect.toNat ∧ (0#32).toNat < ready.desc.nsect.toNat :=
  ⟨ready_inv, by decide, by decide⟩

theorem test_witness_ResetInputLeavesTheController :
    { busyAt [frame .se 2 0 0 0] with host := [.hwReset] }.host = .hwReset :: [] := rfl

/-- The least and the greatest legal code, and the three commands whose operands go into the frame. -/
theorem test_witness_CommandWriteIssuesTheCommand :
    ready.regs.busy = false ∧ { ready with host := [.write 0x00 0x01] }.host = .write 0x00 0x01 :: [] ∧
    decodeCommand 0x01 = some .ident ∧ decodeCommand 0xFFFFFF09 = some .rbuf ∧ decodeCommand 0x03 = some .wrsr ∧
    decodeCommand 0x04 = some .pp ∧ decodeCommand 0x05 = some .se := by decide

theorem test_witness_IllegalCommandCompletesWithThree :
    ready.regs.busy = false ∧ { ready with host := [.write 0x00 0x0A] }.host = .write 0x00 0x0A :: [] ∧
    (0x00#32).extractLsb' 0 8 = 0x00#8 ∧ 0x0A ≤ ((0x0A#32).extractLsb' 0 8).toNat ∧
    0x0A ≤ ((0xFFFFFFFF#32).extractLsb' 0 8).toNat := by decide

theorem test_witness_WritesTheHostMustNotMakeAreRefused :
    (busyAt [frame .wren 1 0 0 0]).regs.busy = true ∧
    { busyAt [frame .wren 1 0 0 0] with host := [.write 0x00 1] }.host = .write 0x00 1 :: [] ∧
    { busyAt [frame .wren 1 0 0 0] with host := [.write 0x14 1] }.host = .write 0x14 1 :: [] ∧
    { busyAt [frame .wren 1 0 0 0] with host := [.write 0x3C 1] }.host = .write 0x3C 1 :: [] ∧
    { busyAt [frame .wren 1 0 0 0] with regs.protIdx := 31 }.regs.protIdx.toNat < ready.prot.length ∧
    ready.prot.length ≤ { busyAt [frame .wren 1 0 0 0] with regs.protIdx := 32 }.regs.protIdx.toNat :=
  ⟨rfl, rfl, rfl, rfl, by decide, by decide⟩

theorem test_witness_RegisterWritesChangeTheRegisterOnly :
    { ready with host := [.write 0x08 7] }.host = .write 0x08 7 :: [] ∧
    { ready with host := [.write 0x0C 7] }.host = .write 0x0C 7 :: [] ∧
    { ready with host := [.write 0x10 7] }.host = .write 0x10 7 :: [] ∧
    { ready with host := [.write 0x38 7] }.host = .write 0x38 7 :: [] ∧
    ready.regs.busy = false ∧ { ready with host := [.write 0x14 7] }.host = .write 0x14 7 :: [] :=
  ⟨rfl, rfl, rfl, rfl, rfl, rfl⟩

theorem test_witness_RegisterFileFollowsTheMap :
    { ready with host := [.read 0x24] }.host = .read 0x24 :: [] ∧
    (0x24#32, 0x200000#32) ∈ [(0x24#32, ready.desc.size)] ∧
    { ready with host := [.write 0x34 7] }.host = .write 0x34 7 :: [] ∧ 0x34#32 ∈ [0x30#32, 0x34] :=
  ⟨rfl, by decide, rfl, by decide⟩

/-- R27: `SIZE` at 0x24 and `NSECT` at 0x28. -/
theorem test_size_and_nsect :
    nextHas (step { ready with host := [.read 0x24] }) (fun t => t.hostData = 0x00200000) = true ∧
    nextHas (step { ready with host := [.read 0x28] }) (fun t => t.hostData = 32) = true := by decide

/-- R22: an index beyond the flags writes nothing, also while busy. -/
theorem test_no_flag_while_busy :
    nextHas (step { busyAt [frame .wren 1 0 0 0] with host := [.write 0x3C 1], regs.protIdx := 32 })
      (fun t => t.prot = ready.prot ∧ t.host = []) = true := by decide

/-- The last flag there is, and the first index beyond the flags, the second also while busy. -/
theorem test_witness_ProtectedFlagWindow :
    ({ busyAt [frame .wren 1 0 0 0] with regs.protIdx := 32 }.regs.busy = false ∨
      ready.prot.length ≤ { busyAt [frame .wren 1 0 0 0] with regs.protIdx := 32 }.regs.protIdx.toNat) ∧
    ready.regs.busy = false ∧ { ready with host := [.write 0x3C 1] }.host = .write 0x3C 1 :: [] ∧
    { ready with regs.protIdx := 31 }.regs.protIdx.toNat < ready.prot.length ∧
    ready.prot.length ≤ { ready with regs.protIdx := 32 }.regs.protIdx.toNat := by decide

theorem test_witness_FlashInitProtectsItsSectors :
    ready.regs.busy = false ∧
    { ready with host := [.write 0x38 5, .write 0x3C 1, .write 0x38 31, .write 0x3C 1, .wait] }.host =
      ([5#32, 31#32].flatMap fun i => [HostAction.write 0x38 i, .write 0x3C 1]) ++ [.wait] := by decide

theorem test_witness_StepRunsTheInnermostProcedure :
    (busyAt [frame .wren 1 0 0 0]).pos = frame .wren 1 0 0 0 :: [] ∧ (busyAt [frame .wren 1 0 0 0]).host = [] ∧
    { busyAt [frame .wren 1 0 0 0] with host := [.pass] }.host = .pass :: [] ∧
    { busyAt [frame .wren 1 0 0 0] with host := [.wait] }.host = .wait :: [] ∧
    (busyAt [frame .wren 1 0 0 0]).regs.busy = true ∧ ready.pos = [] ∧ ready.host = [] ∧
    { ready with host := [.wait] }.host = .wait :: [] ∧ ready.regs.busy = false := by decide

theorem test_witness_PlacedWordRunsNext :
    decodeTableWord 32 0x00000007 = some .erase ∧ decodeTableWord 8 0xD8 = some (.spiSe 0 0 0) := by decide

/-- Each of the procedures, called and as the command itself. -/
theorem test_witness_ProceduresReturnOrComplete :
    (busyAt [frame .wren 3 0 0 0]).pos = frame .wren 3 0 0 0 :: [] ∧
    (busyAt [frame .pp 4 0 0 0, frame .wbuf 4 0 0 0]).pos = frame .pp 4 0 0 0 :: [frame .wbuf 4 0 0 0] ∧
    (busyAt [frame .reset 3 0 0 0, frame .erase 9 0 0 0]).pos = frame .reset 3 0 0 0 :: [frame .erase 9 0 0 0] ∧
    (busyAt [frame .spoll 8 0 0 0, frame .se 3 0 0 0]).pos = frame .spoll 8 0 0 0 :: [frame .se 3 0 0 0] ∧
    (frame .spoll 8 0 0 0).op.space = .wire := ⟨rfl, rfl, rfl, rfl, rfl⟩

theorem test_witness_CommandsCompleteInOneStep :
    (busyAt [frame .erase 10 0 0 0]).pos = frame .erase 10 0 0 0 :: [] ∧
    (busyAt [frame .wbuf 7 0 0 0]).pos = frame .wbuf 7 0 0 0 :: [] ∧
    (busyAt [frame .rbuf 13 0 0 0]).pos = frame .rbuf 13 0 0 0 :: [] ∧
    (busyAt [frame .ident 11 0 0 0]).pos = frame .ident 11 0 0 0 :: [] := ⟨rfl, rfl, rfl, rfl⟩

/-- A called procedure with these answers to come. -/
def calledWith (op : Instr) (a0 a1 a2 : Word) (ws : List Word) : State :=
  { busyAt [frame op 1 a0 a1 a2] with answers := ws }

theorem calledWith_called (op : Instr) (a0 a1 a2 : Word) (ws : List Word) :
    Undisturbed (calledWith op a0 a1 a2 ws) ∧ CalledWith (calledWith op a0 a1 a2 ws) op a0 a1 a2 :=
  ⟨⟨rfl, rfl⟩, ⟨[], rfl⟩⟩

theorem issued_issued (op : Instr) (a0 a1 a2 : Word) (ws : List Word) :
    Undisturbed (issued op a0 a1 a2 ws) ∧ Issued (issued op a0 a1 a2 ws) op :=
  ⟨⟨rfl, rfl⟩, ⟨0, 0, 0, rfl⟩⟩

theorem test_witness_StatusPollRuns :
    Undisturbed (calledWith .spoll 0x01 0x00 3 [0x03, 0x00]) ∧
    CalledWith (calledWith .spoll 0x01 0x00 3 [0x03, 0x00]) .spoll ((0x01#8).setWidth 32) ((0x00#8).setWidth 32)
      ((3#3).setWidth 32) ∧
    (calledWith .spoll 0x01 0x00 3 [0x03, 0x00]).answers = [0x03, 0x00] ++ [] ∧
    PollAnswers 0x01 0x00 [0x03, 0x00] := ⟨⟨rfl, rfl⟩, ⟨[], rfl⟩, rfl, wip_two⟩

theorem test_witness_ReadIdRuns :
    Undisturbed (calledWith .rdid 0 0 0 [0xAB1530EF]) ∧
    CalledWith (calledWith .rdid 0 0 0 [0xAB1530EF]) .rdid 0 0 0 ∧
    (calledWith .rdid 0 0 0 [0xAB1530EF]).answers = 0xAB1530EF :: [] := ⟨⟨rfl, rfl⟩, ⟨[], rfl⟩, rfl⟩

theorem test_witness_SendOnlyTransactionsRun :
    Undisturbed (calledWith .spiWren 0 0 0 []) ∧ CalledWith (calledWith .spiWren 0 0 0 []) .spiWren 0 0 0 ∧
    CalledWith (calledWith (.spiWrsr 0x9C) 0 0 0 []) (.spiWrsr 0x9C) 0 0 0 ∧
    CalledWith (calledWith (.spiSe 0x1F 0 0) 0 0 0 []) (.spiSe 0x1F 0 0) 0 0 0 :=
  ⟨⟨rfl, rfl⟩, ⟨[], rfl⟩, ⟨[], rfl⟩, ⟨[], rfl⟩⟩

/-- No byte, and a page of bytes that wraps past the greatest address. -/
theorem test_witness_PageProgramTransactionRuns :
    CalledWith (calledWith (.spiPp 0 1 0xFA) 0x40000000 0 0 []) (.spiPp 0 1 0xFA) 0x40000000 0 0 ∧
    CalledWith (calledWith (.spiPp 0 1 0xFA) 0xFFFFFFFF 256 0 []) (.spiPp 0 1 0xFA) 0xFFFFFFFF 256 0 ∧
    Undisturbed (calledWith (.spiPp 0 1 0xFA) 0xFFFFFFFF 256 0 []) := ⟨⟨[], rfl⟩, ⟨[], rfl⟩, ⟨rfl, rfl⟩⟩

theorem test_witness_WriteEnableRuns :
    Undisturbed (calledWith .wren 0 0 0 [0x02]) ∧ CalledWith (calledWith .wren 0 0 0 [0x02]) .wren 0 0 0 ∧
    (calledWith .wren 0 0 0 [0x02]).answers = [0x02] ++ [] ∧ PollAnswers 0x02 0x02 [0x02] :=
  ⟨⟨rfl, rfl⟩, ⟨[], rfl⟩, rfl, wel_one⟩

theorem test_witness_StatusWriteRuns :
    Undisturbed (calledWith .wrsr 0x9C 0 0 [0x02, 0x03, 0x00]) ∧
    CalledWith (calledWith .wrsr 0x9C 0 0 [0x02, 0x03, 0x00]) .wrsr 0x9C 0 0 ∧
    (calledWith .wrsr 0x9C 0 0 [0x02, 0x03, 0x00]).answers = [0x02] ++ [0x03, 0x00] ++ [] ∧
    PollAnswers 0x02 0x02 [0x02] ∧ PollAnswers 0x01 0x00 [0x03, 0x00] :=
  ⟨⟨rfl, rfl⟩, ⟨[], rfl⟩, rfl, wel_one, wip_two⟩

/-- `PP(0x01FFFFFF, s, 1)` of section 2.3. -/
theorem test_witness_PageProgramRuns :
    Undisturbed (calledWith .pp 0x01FFFFFF 0x40000000 1 [0x02, 0x00]) ∧
    CalledWith (calledWith .pp 0x01FFFFFF 0x40000000 1 [0x02, 0x00]) .pp 0x01FFFFFF 0x40000000 1 ∧
    (calledWith .pp 0x01FFFFFF 0x40000000 1 [0x02, 0x00]).answers = [0x02] ++ [0x00] ++ [] ∧
    PollAnswers 0x02 0x02 [0x02] ∧ PollAnswers 0x01 0x00 [0x00] :=
  ⟨⟨rfl, rfl⟩, ⟨[], rfl⟩, rfl, wel_one, wip_one⟩

/-- Called by ERASE: `SE(0x1F0000)` of section 2.3. -/
theorem test_witness_SectorEraseRuns :
    Undisturbed { busyAt [frame .se 1 0x1F0000 0 0, frame .erase 5 0 0 0] with answers := [0x02, 0x03, 0x00] } ∧
    CalledWith { busyAt [frame .se 1 0x1F0000 0 0, frame .erase 5 0 0 0] with answers := [0x02, 0x03, 0x00] }
      .se 0x1F0000 0 0 ∧
    { busyAt [frame .se 1 0x1F0000 0 0, frame .erase 5 0 0 0] with answers := [0x02, 0x03, 0x00] }.answers =
      [0x02] ++ [0x03, 0x00] ++ [] ∧
    PollAnswers 0x02 0x02 [0x02] ∧ PollAnswers 0x01 0x00 [0x03, 0x00] :=
  ⟨⟨rfl, rfl⟩, ⟨[frame .erase 5 0 0 0], rfl⟩, rfl, wel_one, wip_two⟩

theorem test_witness_ControllerResetRuns :
    Undisturbed (calledWith .reset 0 0 0 []) ∧ CalledWith (calledWith .reset 0 0 0 []) .reset 0 0 0 :=
  ⟨⟨rfl, rfl⟩, ⟨[], rfl⟩⟩

/-- Program P1. -/
theorem test_witness_IdentifyKnownPartRuns :
    Undisturbed (issued .ident 0 0 0 [0x001530EF, 0x02, 0x03, 0x00]) ∧
    Issued (issued .ident 0 0 0 [0x001530EF, 0x02, 0x03, 0x00]) .ident ∧
    (issued .ident 0 0 0 [0x001530EF, 0x02, 0x03, 0x00]).answers = 0x001530EF :: ([0x02] ++ [0x03, 0x00] ++ []) ∧
    PollAnswers 0x02 0x02 [0x02] ∧ PollAnswers 0x01 0x00 [0x03, 0x00] ∧
    tableLookup (issued .ident 0 0 0 []).par ((0x001530EF#32).extractLsb' 0 24) = some row :=
  ⟨⟨rfl, rfl⟩, ⟨0, 0, 0, rfl⟩, rfl, wel_one, wip_two, by decide⟩

/-- The variant of program P1: id word 0x00123456. -/
theorem test_witness_IdentifyUnknownPartRuns :
    Undisturbed (issued .ident 0 0 0 [0x00123456]) ∧ Issued (issued .ident 0 0 0 [0x00123456]) .ident ∧
    (issued .ident 0 0 0 [0x00123456]).answers = 0x00123456 :: [] ∧
    tableLookup (issued .ident 0 0 0 []).par ((0x00123456#32).extractLsb' 0 24) = none :=
  ⟨⟨rfl, rfl⟩, ⟨0, 0, 0, rfl⟩, rfl, by decide⟩

/-- First sector -1, and 3 to 2 (section 2.5). -/
theorem test_witness_EraseRejectsAnInvalidRange :
    Undisturbed (issued .erase 3 2 0 []) ∧ Issued (issued .erase 3 2 0 []) .erase ∧
    (issued .erase 3 2 0 []).work.a0.toInt > (issued .erase 3 2 0 []).work.a1.toInt ∧
    (issued .erase 0xFFFFFFFF 5 0 []).work.a0.toInt < 0 :=
  ⟨⟨rfl, rfl⟩, ⟨0, 0, 0, rfl⟩, by decide, by decide⟩

/-- The last sector alone, with its one erase. -/
theorem test_witness_EraseRunsOverItsRange :
    let s := issued .erase 31 31 0 [0x02, 0x03, 0x00]
    Undisturbed s ∧ Issued s .erase ∧ 0 ≤ s.work.a0.toInt ∧ s.work.a0.toInt ≤ s.work.a1.toInt ∧
    s.work.a1.toNat < s.prot.length ∧ s.work.a1.toNat < s.desc.nsect.toNat ∧
    [polls].length = (unprotected s.prot s.work.a0.toNat (s.work.a1.toNat + 1 - s.work.a0.toNat)).length ∧
    (∀ p ∈ [polls], p.Good) ∧ s.answers = allAnswers [polls] ++ [] :=
  ⟨⟨rfl, rfl⟩, ⟨0, 0, 0, rfl⟩, by decide, by decide, by decide, by decide, by decide,
    by simpa using polls_good, rfl⟩

/-- Nothing identified: sector 0, at offset 0. -/
theorem test_witness_EraseWithoutAPartRunsAtOffsetZero :
    let s := { issued .erase 0 0 0 [0x02, 0x03, 0x00] with desc := Descriptor.reset }
    Undisturbed s ∧ Issued s .erase ∧ 0 ≤ s.work.a0.toInt ∧ s.work.a0.toInt ≤ s.work.a1.toInt ∧
    s.work.a1.toNat < s.prot.length ∧ s.desc.nsect = 0 ∧ s.desc.secsz = 0 ∧
    [polls].length = (unprotected s.prot s.work.a0.toNat (s.work.a1.toNat + 1 - s.work.a0.toNat)).length ∧
    (∀ p ∈ [polls], p.Good) ∧ s.answers = allAnswers [polls] ++ [] :=
  ⟨⟨rfl, rfl⟩, ⟨0, 0, 0, rfl⟩, by decide, by decide, by decide, rfl, rfl, by decide,
    by simpa using polls_good, rfl⟩

/-- The range check of 0 to 31, which exist, and of 0 to 32 (U3). -/
theorem test_witness_EraseBeyondTheSectorsIsRefused :
    let s := { busyAt [frame .erase 2 0 0 0] with work := { WorkRegs.reset with a1 := 32 } }
    s.pos = frame .erase 2 0 0 0 :: [] ∧ (frame .erase 2 0 0 0).step = 2 ∧ 0 ≤ s.work.a0.toInt ∧
    s.work.a0.toInt ≤ s.work.a1.toInt ∧ s.prot.length ≤ s.work.a1.toNat ∧ ¬ s.prot.length ≤ 31 := by decide

/-- Two chunks across a page boundary, and a count of 0. -/
theorem test_witness_BufferedWriteRuns :
    let s := issued .wbuf 0x40000000 0x1FF 2 [0x02, 0x03, 0x00, 0x02, 0x03, 0x00]
    Undisturbed s ∧ Issued s .wbuf ∧
    chunks s.work.a2.toNat (s.work.a1 - s.regs.bankBase) s.work.a0 s.work.a2 =
      [(0x1FF, 0x40000000, 1), (0x200, 0x40000001, 1)] ∧
    (∀ p ∈ [polls, polls], p.Good) ∧ s.answers = allAnswers [polls, polls] ++ [] ∧
    chunks 0 0x1FF 0x40000000 0 = [] :=
  ⟨⟨rfl, rfl⟩, ⟨0, 0, 0, rfl⟩, by decide, by simpa using polls_good, rfl, rfl⟩

/-- Five bytes: one word load and one byte load. -/
theorem test_witness_ReadPathRuns :
    let s := issued .rbuf 0x40001000 0x1F8 5 [0x13121110, 0x14]
    Undisturbed s ∧ Issued s .rbuf ∧ Memory.wf s.buf = true ∧ [0x13121110#32].length = s.work.a2.toNat / 4 ∧
    [0x14#32].length = s.work.a2.toNat % 4 ∧ s.answers = [0x13121110] ++ [0x14] ++ [] :=
  ⟨⟨rfl, rfl⟩, ⟨0, 0, 0, rfl⟩, by decide, by decide, by decide, rfl⟩

/-- A reference part whose array holds 0x00 at the address 0x1FA. -/
def refPart : RefPart where
  id := 0x1530EF
  size := 0x200000
  sectorSize := 0x10000
  array := [(0x1FA, 0x00)]
  sr := 0x02
  busyReads := 0
  rx := []
  sent := 0

/-- The last eight bytes of the part. -/
theorem test_witness_ReadPathReproducesTheArray :
    let s := { issued .rbuf 0x40001000 0x1FFFF8 8 [] with part := some refPart }
    s.host = [] ∧ s.part = some refPart ∧ Issued s .rbuf ∧ Memory.wf s.buf = true ∧ defaultMode s.ctrl = true ∧
    s.work.a1.toNat % 4 = 0 ∧ refPart.size ≤ 2 ^ 32 ∧
    (s.work.a1 - s.regs.bankBase).toNat + s.work.a2.toNat ≤ refPart.size :=
  ⟨rfl, rfl, ⟨0, 0, 0, rfl⟩, by decide, by decide, by decide, by decide, by decide⟩

theorem test_witness_UnansweredPollRunsOn :
    let s := inWindowAt [frame .spoll 5 0x01 0x00 3] [0x03, 0x03]
    Undisturbed s ∧ s.pos = frame .spoll 5 0x01 0x00 3 :: [] ∧ windowOpen s.ctrl = true ∧
    (∀ w ∈ s.answers, answerByte w &&& (0x01#32).setWidth 8 ≠ (0x00#32).setWidth 8) :=
  ⟨⟨rfl, rfl⟩, rfl, by decide, by simp [inWindowAt, answerByte]⟩

/-- Each hypothesis of DelaySums has a witness above; here the one with the longest data, and the transactions. -/
theorem test_witness_DelaySums :
    Undisturbed (calledWith .pp 0x1F0 0x40000000 3 [0x02, 0x03, 0x00]) ∧
    CalledWith (calledWith .pp 0x1F0 0x40000000 3 [0x02, 0x03, 0x00]) .pp 0x1F0 0x40000000 3 ∧
    (calledWith .pp 0x1F0 0x40000000 3 [0x02, 0x03, 0x00]).answers = [0x02] ++ [0x03, 0x00] ++ [] ∧
    PollAnswers 0x02 0x02 [0x02] ∧ PollAnswers 0x01 0x00 [0x03, 0x00] ∧
    CalledWith (calledWith (.spiPp 0 1 0xF0) 0x40000000 3 0 []) (.spiPp 0 1 0xF0) 0x40000000 3 0 ∧
    CalledWith (calledWith .rdid 0 0 0 [0x1530EF]) .rdid 0 0 0 :=
  ⟨⟨rfl, rfl⟩, ⟨[], rfl⟩, rfl, wel_one, wip_two, ⟨[], rfl⟩, ⟨[], rfl⟩⟩

/-- A state that a procedure of each frame statement goes on from. -/
theorem test_witness_frames :
    ((after (exec .spoll (inWindowAt [frame .spoll 5 0x02 0x02 6] [0x03]))).isSome ∧ Instr.spoll.space = .wire) ∧
    (after (exec .pp (busyAt [frame .pp 2 0 0 3]))).isSome ∧
    (after (exec .reset (busyAt [frame .reset 1 0 0 0]))).isSome ∧
    (after (exec .ident (busyAt [frame .ident 5 0 0 0]))).isSome ∧
    (after (exec .erase (busyAt [frame .erase 6 0 0 0]))).isSome ∧
    (after (exec .wbuf (busyAt [frame .wbuf 1 0 0 0]))).isSome := by decide

/-- RBUF at a step that stores and at one that does not. -/
theorem test_witness_ReadPathFrame :
    (after (exec .rbuf (busyAt [frame .rbuf 7 0 0 0]))).isSome ∧ rbufStoreAddr (busyAt [frame .rbuf 7 0 0 0]) = some 3 ∧
    (after (exec .rbuf (busyAt [frame .rbuf 8 0 0 0]))).isSome ∧ rbufStoreAddr (busyAt [frame .rbuf 8 0 0 0]) = none := by
  decide

/-- R47: with the window open a word load shifts four bytes out of the reference part (three of them id bytes). -/
theorem test_rbuf_shifts_open_window :
    nextHas (exec .rbuf { inWindowAt [frame .rbuf 3 0 0 0] [0] with part := some { refPart with rx := [0x9F] } })
      (fun t => t.part = some { refPart with rx := [0x9F], sent := 4 }) = true := by decide

/-- K4: a control write that leaves chip-select low starts no new command; one that takes it low does. -/
theorem test_select_on_going_low :
    ({ inWindowAt [] [] with part := some { refPart with rx := [0x9F] } }.ctrlWrite 0x00000003).part =
      some { refPart with rx := [0x9F] } ∧
    ({ ready with part := some { refPart with rx := [0x9F] } }.ctrlWrite 0x00000003).part = some refPart := by decide

/-- A step of IDENT that changes the descriptor, one of ERASE that changes a result, and the reset input. -/
theorem test_witness_DescriptorAndResultsHaveOneWriter :
    nextHas (step (busyAt [frame .ident 2 0 0 0])) (fun t => t.desc ≠ identified) = true ∧
    nextHas (step (busyAt [frame .erase 6 0 0 0])) (fun t => t.regs.result1 ≠ 0) = true ∧
    nextHas (step { ready with host := [.hwReset] }) (fun t => t.desc ≠ identified) = true := by decide

theorem test_witness_ControlRegisterHasOneWriter :
    nextHas (step (busyAt [frame .rdid 1 0 0 0])) (fun t => t.ctrl ≠ (busyAt [frame .rdid 1 0 0 0]).ctrl) = true := by
  decide

theorem test_witness_StepMakesAtMostOnePortAction :
    nextHas (step (busyAt [frame .rdid 1 0 0 0])) (fun t => t.trace.length = 1) = true := by decide

theorem test_witness_ProgressPulsesForEachSector :
    (busyAt [frame .erase 6 0 0 0]).pos = frame .erase 6 0 0 0 :: [] ∧ (busyAt [frame .erase 6 0 0 0]).host = [] ∧
    nextHas (step (busyAt [frame .erase 6 0 0 0])) (fun t => t.progress) = true := by decide

/-- In the deepest position, with the window open: WREN's poll inside SE inside ERASE. -/
def deepest : State :=
  inWindowAt [frame .spoll 5 0x02 0x02 6, frame .wren 2 0 0 0, frame .se 1 0x1F0000 0 0, frame .erase 5 0 0 0] [0x02]

theorem deepest_inv : State.Inv deepest := by constructor <;> decide

theorem test_witness_StepKeepsTheInvariant : State.Inv deepest ∧ (after (step deepest)).isSome :=
  ⟨deepest_inv, by decide⟩

theorem test_witness_PositionDepthIsBounded : State.Inv deepest ∧ deepest.pos.length = 4 := ⟨deepest_inv, rfl⟩

/-- A state whose step is a next state, and one whose step is the refusal. -/
theorem test_witness_SequencerAlwaysHasANextStep :
    State.Inv deepest ∧ deepest.host = [] ∧ (after (step deepest)).isSome ∧
    State.Inv { busyAt [frame .erase 2 0 0 0] with work := { WorkRegs.reset with a1 := 32 } } ∧
    step { busyAt [frame .erase 2 0 0 0] with work := { WorkRegs.reset with a1 := 32 } } =
      .refused .eraseBeyondSectors :=
  ⟨deepest_inv, rfl, by decide, by constructor <;> decide, rfl⟩

/-- Inside a transaction whose opcode has been sent. -/
def sent : State :=
  { inWindowAt [frame .spoll 5 0x02 0x02 6, frame .wren 2 0 0 0] [0x02] with
    trace := [.ctrlWrite 0x00000603, .delay 100, .dataWrite8 0 0x05, .delay 10] }

theorem test_witness_StepKeepsTheWindowDiscipline :
    State.Inv sent ∧ noHwReset sent.host = true ∧ sent.Disciplined ∧ (after (step sent)).isSome :=
  ⟨by constructor <;> decide, rfl, by constructor <;> decide, by decide⟩

/-- K4: two bytes at 0x1FF wrap to 0x100 inside their page; 0xF0 lands at 0x1FF, 0x0F at 0x100. -/
theorem test_page_program_wraps :
    let q := ([0x00, 0x01, 0xFF, 0xF0, 0x0F].foldl RefPart.receive (refPart.select.receive 0x02)).deselect 1
    Memory.read q.array 0x1FF = 0xF0 ∧ Memory.read q.array 0x100 = 0x0F ∧ Memory.read q.array 0x200 = 0xFF := by decide

/-- A part with WEL clear, one with WEL set, a part whose chip-select is high and one whose chip-select is low. -/
theorem test_witness_ReferencePartCommands :
    ({ ready with part := some refPart }.part = some refPart ∧ ctrlSelect 0x00000003 = .low ∧
      ctrlSelect ready.ctrl = .high ∧ ctrlSelect (inWindowAt [] []).ctrl = .low ∧ (1 : Nat) ≠ 0) ∧
    { refPart with sr := 0 }.sr &&& 0x02#8 = 0 ∧ (0xD8 : Byte) ≠ 0x06 ∧ refPart.sr &&& 0x02#8 ≠ 0 ∧
    Memory.wf refPart.array = true ∧ (wireOffset 0x1F 0xFF 0xFF).toNat < refPart.size ∧ 0 < refPart.sectorSize := by
  decide

end Sys2Proof.Tests
end

section
/-! What one step of the sequencer can do, said once for every procedure: an internal update, or one port action with
internal updates around it (00_scope.md R5, R8). -/

namespace Sys2Proof.Machine

variable {s t v : State}

/-- An internal update: it may change the host registers, the descriptor, the flags, the position, the working registers
and the pulse, and nothing else. -/
structure InternalUpdate (s t : State) : Prop where
  timer : t.timer = s.timer
  ctrl : t.ctrl = s.ctrl
  clkCfg : t.clkCfg = s.clkCfg
  buf : t.buf = s.buf
  part : t.part = s.part
  par : t.par = s.par
  answers : t.answers = s.answers
  draws : t.draws = s.draws
  host : t.host = s.host
  hostData : t.hostData = s.hostData
  trace : t.trace = s.trace

/-- The port actions of R8; those of the data window need it open (R187). -/
inductive PortStep (s : State) : State → Prop where
  | ctrlWrite (w : Word) : PortStep s (s.ctrlWrite w)
  | delay (n : Nat) : PortStep s (s.delay n)
  | dataWrite8 (b : Byte) (hw : windowOpen s.ctrl = true) : PortStep s (s.sent8 b)
  | dataRead8 (hw : windowOpen s.ctrl = true) : PortStep s s.read8
  | dataRead32 (hw : windowOpen s.ctrl = true) : PortStep s s.read32
  | winRead32 (a : Word) : PortStep s (s.winRead32 a)
  | winRead8 (a : Word) : PortStep s (s.winRead8 a)
  | clkCfgRead : PortStep s s.clkCfgRead
  | bufRead8 (a : Word) : PortStep s (s.bufRead8 a)
  | bufWrite8 (a : Word) (b : Byte) : PortStep s (s.bufWrite8 a b)

/-- What one step of a procedure can do. -/
inductive ProcStep (s t : State) : Prop where
  | internal (h : InternalUpdate s t)
  | action (u v : State) (hu : InternalUpdate s u) (ha : PortStep u v) (ht : InternalUpdate v t)

/-! ### Internal updates -/

theorem InternalUpdate.refl (s : State) : InternalUpdate s s := by constructor <;> rfl

theorem InternalUpdate.goto (s : State) (n : Nat) : InternalUpdate s (s.goto n) := by constructor <;> simp

theorem InternalUpdate.gotoWith (s : State) (k n : Nat) : InternalUpdate s (s.gotoWith k n) := by constructor <;> simp

theorem InternalUpdate.call (s : State) (op : Instr) (a0 a1 a2 : Word) : InternalUpdate s (s.call op a0 a1 a2) := by
  constructor <;> rfl

theorem InternalUpdate.finish (s : State) : InternalUpdate s s.finish := by constructor <;> simp

/-- One port action, and the position moved on. -/
theorem PortStep.thenGoto (ha : PortStep s v) (n : Nat) : ProcStep s (v.goto n) :=
  .action s v (.refl s) ha (.goto v n)

theorem PortStep.thenGotoWith (ha : PortStep s v) (k n : Nat) : ProcStep s (v.gotoWith k n) :=
  .action s v (.refl s) ha (.gotoWith v k n)

/-! ### The procedures -/

theorem TailCase.procStep {tail : Tail} (h : TailCase tail s t) : ProcStep s t := by
  cases h with
  | none | dataEnd => exact .internal (.goto s 6)
  | pollMet _ hw => exact (PortStep.dataRead8 hw).thenGoto 6
  | pollAgain _ hw => exact .action s _ (.refl s) (.dataRead8 hw) (.refl _)
  | read24 _ hw => exact (PortStep.dataRead32 hw).thenGoto 6
  | dataFetch => exact (PortStep.bufRead8 _).thenGoto 9

theorem txnStep_procStep {div : DivCode} {out : List Byte} {tail : Tail} (h : txnStep div out tail s = .next t) :
    ProcStep s t := by
  cases txnStep_eq_next h with
  | t1 => exact .action { s with work.div := div } _ (by constructor <;> rfl) (.ctrlWrite _) (.goto _ 2)
  | t5 => exact (PortStep.ctrlWrite _).thenGoto 7
  | t6 => exact (PortStep.delay _).thenGoto 8
  | t2 | t3bMore | t3bLast | g9Settle => exact (PortStep.delay _).thenGotoWith _ _
  | t3a _ hw => exact (PortStep.dataWrite8 _ hw).thenGoto 4
  | g9Send _ _ hw => exact (PortStep.dataWrite8 _ hw).thenGoto 10
  | t4 _ ht => exact ht.procStep
  | done => exact .internal (.finish s)

/-! WREN, WRSR, PP, SE, ERASE and WBUF make no port action of their own: those they need are the transactions' and
RESET's, which they call. -/

theorem execWren_internal (h : execWren s = .next t) : InternalUpdate s t := by
  unfold execWren at h
  split at h <;> cases h
  · exact .call s ..
  · exact .call s ..
  · exact .finish s

theorem execWrsr_internal (h : execWrsr s = .next t) : InternalUpdate s t := by
  unfold execWrsr at h
  split at h <;> cases h
  · exact .call s ..
  · exact .call s ..
  · exact .call s ..
  · exact .finish s

theorem execPp_internal (h : execPp s = .next t) : InternalUpdate s t := by
  unfold execPp at h
  split at h <;> cases h
  · exact .call s ..
  · exact .call s ..
  · exact .call s ..
  · exact .finish s

theorem execSe_internal (h : execSe s = .next t) : InternalUpdate s t := by
  unfold execSe at h
  split at h <;> cases h
  · exact .call s ..
  · exact .call s ..
  · exact .call s ..
  · exact .finish s

theorem execErase_internal (h : execErase s = .next t) : InternalUpdate s t := by
  unfold execErase at h
  repeat' split at h
  all_goals cases h
  all_goals constructor <;> simp

theorem execWbuf_internal (h : execWbuf s = .next t) : InternalUpdate s t := by
  unfold execWbuf at h
  repeat' split at h
  all_goals cases h
  all_goals constructor <;> simp

/-- Steps Z1 and Z2 of RESET are its two port actions. -/
theorem execReset_procStep (h : execReset s = .next t) : ProcStep s t := by
  unfold execReset at h
  split at h <;> cases h
  · exact (PortStep.ctrlWrite _).thenGoto 2
  · exact (PortStep.delay _).thenGoto 3
  · exact .internal (.finish s)

/-- Step I7 of IDENT reads the clock register; its other steps are internal. -/
theorem execIdent_procStep (h : execIdent s = .next t) : ProcStep s t := by
  unfold execIdent at h
  split at h
  case h_7 => cases h; exact PortStep.clkCfgRead.thenGoto 8
  all_goals
    refine .internal ?_
    repeat' split at h
    all_goals cases h
    all_goals constructor <;> simp

/-- RBUF loads at steps C3 and C6 and stores what it loaded; its other steps are internal. -/
theorem execRbuf_procStep (h : execRbuf s = .next t) : ProcStep s t := by
  unfold execRbuf at h
  split at h
  case h_3 => cases h; exact (PortStep.winRead32 _).thenGoto 4
  case h_4 | h_5 | h_6 | h_7 | h_11 => cases h; exact (PortStep.bufWrite8 _ _).thenGoto _
  case h_10 => cases h; exact (PortStep.winRead8 _).thenGoto 11
  all_goals
    refine .internal ?_
    repeat' split at h
    all_goals cases h
    all_goals constructor <;> simp

/-- One step of any procedure: an internal update, or one port action. -/
theorem exec_procStep {i : Instr} (h : exec i s = .next t) : ProcStep s t := by
  cases i with
  | ident => exact execIdent_procStep h
  | wren => exact .internal (execWren_internal h)
  | wrsr => exact .internal (execWrsr_internal h)
  | pp => exact .internal (execPp_internal h)
  | se => exact .internal (execSe_internal h)
  | reset => exact execReset_procStep h
  | erase => exact .internal (execErase_internal h)
  | wbuf => exact .internal (execWbuf_internal h)
  | rbuf => exact execRbuf_procStep h
  | rdid | spiWren | spoll | spiWrsr | spiPp | spiSe => exact txnStep_procStep h

/-! ### The trace -/

/-- Every port action is recorded, after those before it (00_scope.md R6). -/
theorem PortStep.trace (ha : PortStep s t) : ∃ e, t.trace = s.trace ++ [e] := by
  cases ha with
  | dataRead8 => exact ⟨.dataRead8 s.regs.bankBase s.shiftedIn, by simp [State.read8]⟩
  | dataRead32 => exact ⟨.dataRead32 s.regs.bankBase s.shiftedInWord, by simp [State.read32]⟩
  | ctrlWrite w => exact ⟨_, State.ctrlWrite_trace s w⟩
  | winRead32 a => exact ⟨_, State.winRead32_trace s a⟩
  | winRead8 a => exact ⟨_, State.winRead8_trace s a⟩
  | delay | dataWrite8 | clkCfgRead | bufRead8 | bufWrite8 => exact ⟨_, rfl⟩

theorem ProcStep.trace (h : ProcStep s t) : t.trace = s.trace ∨ ∃ e, t.trace = s.trace ++ [e] := by
  cases h with
  | internal h => exact .inl h.trace
  | action u v hu ha ht =>
    obtain ⟨e, he⟩ := ha.trace
    exact .inr ⟨e, by rw [ht.trace, he, hu.trace]⟩

theorem State.issue_trace (s : State) (w : Word) : (s.issue w).trace = s.trace := by
  unfold State.issue
  split <;> rfl

theorem writeReg_trace {r : HostReg} {w : Word} (h : writeReg s r w = .next t) : t.trace = s.trace := by
  unfold writeReg at h
  split at h
  case h_1 =>
    split at h <;> cases h
    exact State.issue_trace s w
  all_goals
    repeat' split at h
    all_goals cases h
    all_goals rfl

/-- A host action is no port action (00_scope.md R6). -/
theorem hostStep_trace {a : HostAction} (h : hostStep s a = .next t) : t.trace = s.trace := by
  cases a with
  | write off w =>
    simp only [hostStep] at h
    split at h
    · exact writeReg_trace h
    · cases h
  | read off =>
    simp only [hostStep] at h
    split at h <;> cases h
    rfl
  | wait | pass | hwReset | store | clock => cases h; rfl

/-- Settles O53, by what each agent's move can do: a host action records nothing, a step of a procedure at most one port
action. -/
theorem stepMakesAtMostOnePortAction : Obligations.StepMakesAtMostOnePortAction := by
  unfold Obligations.StepMakesAtMostOnePortAction
  intro s t h
  cases step_cases h with
  | idle _ ht =>
    left
    obtain rfl | ⟨_, _, _, rfl⟩ := ht <;> rfl
  | waited _ _ _ ht => exact .inl (by rw [ht])
  | sequencer _ _ _ _ _ ht => exact (exec_procStep ht).trace
  | host _ _ _ ht => exact .inl (hostStep_trace ht :)

end Sys2Proof.Machine
end

section
/-! What the position can be (10_state.md R25): who calls what, how deep, and the frames and stacks that may
stand there. -/

namespace Sys2Proof.Machine

variable {f g : Frame} {fs : List Frame} {op : Instr}

/-! ### Callers -/

/-- How deep the calls of an operation go: a transaction calls nothing, and each caller stands above what it calls. -/
def callDepth : Instr → Nat
  | .ident | .erase | .wbuf | .rbuf => 4
  | .wrsr | .pp | .se => 3
  | .wren | .reset => 2
  | .rdid | .spiWren | .spoll | .spiWrsr _ | .spiPp _ _ _ | .spiSe _ _ _ => 1

/-- A caller is a command that has a step after the call, and what it calls goes less deep. -/
theorem calls_caller (h : calls g op = true) :
    g.op.space = .command ∧ g.step < lastStep g.op ∧ callDepth op < callDepth g.op := by
  unfold calls at h
  split at h
  case h_19 => contradiction
  all_goals
    next ho hs =>
      simp only [decide_eq_true_eq] at h
      simp [ho, hs, h, Instr.space, lastStep, callDepth]

theorem callDepth_pos (op : Instr) : 1 ≤ callDepth op := by cases op <;> simp [callDepth]

theorem callDepth_le (op : Instr) : callDepth op ≤ 4 := by cases op <;> simp [callDepth]

/-- Under a procedure stand at most as many frames as its depth leaves room for. -/
theorem stackOk_depth (h : stackOk (f :: fs) = true) : fs.length + callDepth f.op ≤ 4 := by
  induction fs generalizing f with
  | nil => simpa using callDepth_le f.op
  | cons g fs ih =>
    simp only [stackOk, Bool.and_eq_true] at h
    obtain ⟨⟨_, hc⟩, hs⟩ := h
    obtain ⟨_, _, hlt⟩ := calls_caller hc
    have := ih hs
    simp only [List.length_cons]
    omega

/-- Settles O57: each caller goes deeper than what it calls, and none deeper than four. -/
theorem positionDepthIsBounded : Obligations.PositionDepthIsBounded := by
  unfold Obligations.PositionDepthIsBounded
  intro s hi
  have hs := hi.stack
  cases hp : s.pos with
  | nil => simp
  | cons f fs =>
    rw [hp] at hs
    have := stackOk_depth hs
    have := callDepth_pos f.op
    simp only [List.length_cons]
    omega

/-! ### Frames -/

theorem frameOk_command (hsp : f.op.space = .command) (h1 : 1 ≤ f.step) (hl : f.step ≤ lastStep f.op) :
    f.ok = true := by
  simp [Frame.ok, counterOk, hsp, h1, hl]

theorem inWindow_command (hsp : f.op.space = .command) : inWindow f = false := by simp [inWindow, hsp]

theorem frameOk_start (op : Instr) (a0 a1 a2 : Word) : (Frame.start op a0 a1 a2).ok = true := by
  cases op <;> simp [Frame.ok, counterOk, Frame.start, lastStep]

theorem inWindow_start (op : Instr) (a0 a1 a2 : Word) : inWindow (Frame.start op a0 a1 a2) = false := by
  simp [inWindow, Frame.start]

/-- The loop counter of a transaction's frame, loop by loop: the bytes of its header, the data bytes of a page
program. -/
theorem frameOk_wire (hsp : f.op.space = .wire) : f.ok = true ↔
    (1 ≤ f.step ∧ f.step ≤ lastStep f.op) ∧ (f.step = 3 ∨ f.step = 4 → f.k < headerLength f.op) ∧
    (f.step = 9 ∨ f.step = 10 → f.k < f.a1.toNat) ∧ (f.step = 5 ∧ f.op.format = .w4n → f.k ≤ f.a1.toNat) := by
  simp only [Frame.ok, counterOk, hsp, Bool.decide_and, Bool.and_eq_true, decide_eq_true_eq, reduceCtorEq, false_or]
  grind

theorem lastStep_wire (hsp : op.space = .wire) : 8 ≤ lastStep op := by
  cases op <;> simp [Instr.space, lastStep] at *

/-! ### Stacks -/

theorem stackOk_top (h : stackOk (f :: fs) = true) : f.ok = true := by
  cases fs <;> simp_all [stackOk]

/-- The innermost procedure may go to any other step of its own. -/
theorem stackOk_moved (h : stackOk (f :: fs) = true) (ho : g.op = f.op) (hg : g.ok = true) :
    stackOk (g :: fs) = true := by
  cases fs <;> simp_all [stackOk]

theorem stackOk_called (h : stackOk (g :: fs) = true) (hc : calls g f.op = true) (hf : f.ok = true) :
    stackOk (f :: g :: fs) = true := by
  simp [stackOk, h, hc, hf]

/-- A caller has a step to return to. -/
theorem stackOk_returned (h : stackOk (f :: g :: fs) = true) :
    stackOk ({ g with step := g.step + 1 } :: fs) = true := by
  simp only [stackOk, Bool.and_eq_true] at h
  obtain ⟨⟨_, hc⟩, hs⟩ := h
  obtain ⟨hsp, hlt, _⟩ := calls_caller hc
  exact stackOk_moved hs rfl (frameOk_command hsp (Nat.le_add_left 1 _) hlt)

end Sys2Proof.Machine
end

section
/-! What one step of a procedure makes of the position and of the registers of the block (10_state.md R11 to R25). -/

namespace Sys2Proof.Machine

variable {s t u : State} {op : Instr}

/-! ### One step of a host command's procedure -/

/-- What a step of `op` has done to the registers of the block before it moves the position. -/
structure Prepared (op : Instr) (s u : State) : Prop where
  pos : u.pos = s.pos
  regs : u.regs = { s.regs with result0 := u.regs.result0, result1 := u.regs.result1 }
  results : op ≠ .erase → u.regs = s.regs
  progress : op ≠ .erase → u.progress = s.progress
  desc : op ≠ .ident → u.desc = s.desc
  ctrl : u.ctrl = s.ctrl ∨ ∃ d, u.ctrl = controlWord d .high .fastRead

/-- A step of a procedure of the nine host commands goes to a step it has, calls the procedure that stands there,
returns, or completes the command. -/
inductive CommandMove (op : Instr) (s : State) : State → Prop where
  | goto {u : State} (n : Nat) (hu : Prepared op s u) (hn : 1 ≤ n ∧ n ≤ lastStep op) : CommandMove op s (u.goto n)
  | call {o : Instr} {a0 a1 a2 : Word} (hc : s.frame.op = op → calls s.frame o = true) :
      CommandMove op s (s.call o a0 a1 a2)
  | finish : CommandMove op s s.finish
  | complete {u : State} (rc : BitVec 2) (hu : Prepared op s u) (hrc : rc ≠ 2) : CommandMove op s (u.complete rc)

/-- An update that touches none of these registers. -/
theorem Prepared.of_same (hp : u.pos = s.pos) (hr : u.regs = s.regs) (hg : u.progress = s.progress)
    (hd : u.desc = s.desc) (hc : u.ctrl = s.ctrl) : Prepared op s u where
  pos := hp
  regs := by rw [hr]
  results _ := hr
  progress _ := hg
  desc _ := hd
  ctrl := .inl hc

theorem Prepared.cmd (hu : Prepared op s u) : u.regs.cmd = s.regs.cmd := by rw [hu.regs]

theorem Prepared.busy (hu : Prepared op s u) : u.regs.busy = s.regs.busy := by rw [hu.regs]

theorem Prepared.rc (hu : Prepared op s u) : u.regs.rc = s.regs.rc := by rw [hu.regs]

theorem Prepared.refl (op : Instr) (s : State) : Prepared op s s := .of_same rfl rfl rfl rfl rfl

theorem Prepared.work (op : Instr) (s : State) (w : WorkRegs) : Prepared op s { s with work := w } :=
  .of_same rfl rfl rfl rfl rfl

theorem execWren_move (h : execWren s = .next t) : CommandMove .wren s t := by
  unfold execWren at h
  split at h <;> cases h
  case h_3 => exact .finish
  all_goals exact .call fun ho => by simp_all [calls, State.stepNo]

theorem execWrsr_move (h : execWrsr s = .next t) : CommandMove .wrsr s t := by
  unfold execWrsr at h
  split at h <;> cases h
  case h_4 => exact .finish
  all_goals exact .call fun ho => by simp_all [calls, State.stepNo]

theorem execPp_move (h : execPp s = .next t) : CommandMove .pp s t := by
  unfold execPp at h
  split at h <;> cases h
  case h_4 => exact .finish
  all_goals exact .call fun ho => by simp_all [calls, State.stepNo]

theorem execSe_move (h : execSe s = .next t) : CommandMove .se s t := by
  unfold execSe at h
  split at h <;> cases h
  case h_4 => exact .finish
  all_goals exact .call fun ho => by simp_all [calls, State.stepNo]

/-- RESET alone writes `CTRL`, with the default mode. -/
theorem execReset_move (h : execReset s = .next t) : CommandMove .reset s t := by
  unfold execReset at h
  split at h <;> cases h
  case h_1 => exact .goto 2 ⟨by simp, by simp, by simp, by simp, by simp, .inr ⟨_, rfl⟩⟩ (by decide)
  case h_2 => exact .goto 3 (.of_same rfl rfl rfl rfl rfl) (by decide)
  case h_3 => exact .finish

theorem execErase_move (h : execErase s = .next t) : CommandMove .erase s t := by
  unfold execErase at h
  split at h
  case h_1 => cases h; exact .goto 2 (by constructor <;> simp) (by decide)
  case h_2 =>
    split at h
    · cases h; exact .complete 1 (.refl ..) (by decide)
    · split at h <;> cases h
      exact .goto 3 (.refl ..) (by decide)
  case h_3 => cases h; exact .goto 4 (by constructor <;> simp) (by decide)
  case h_4 => cases h; exact .goto 5 (.work ..) (by decide)
  case h_5 =>
    split at h <;> cases h
    · exact .goto 7 (.refl ..) (by decide)
    · exact .call fun ho => by simp_all [calls, State.stepNo]
  case h_6 => cases h; exact .goto 7 (by constructor <;> simp) (by decide)
  case h_7 => split at h <;> cases h <;> exact .goto _ (.refl ..) (by decide)
  case h_8 => cases h; exact .goto 5 (.work ..) (by decide)
  case h_9 => cases h; exact .call fun ho => by simp_all [calls, State.stepNo]
  case h_10 => cases h; exact .complete 0 (.refl ..) (by decide)
  case h_11 => cases h

theorem execWbuf_move (h : execWbuf s = .next t) : CommandMove .wbuf s t := by
  unfold execWbuf at h
  split at h
  case h_2 => split at h <;> cases h <;> exact .goto _ (.refl ..) (by decide)
  case h_4 | h_6 => cases h; exact .call fun ho => by simp_all [calls, State.stepNo]
  case h_7 => cases h; exact .complete 0 (.refl ..) (by decide)
  case h_8 => cases h
  all_goals cases h; exact .goto _ (.work ..) (by decide)

theorem execRbuf_move (h : execRbuf s = .next t) : CommandMove .rbuf s t := by
  unfold execRbuf at h
  split at h
  case h_2 | h_9 => split at h <;> cases h <;> exact .goto _ (.refl ..) (by decide)
  case h_13 => cases h; exact .complete 0 (.refl ..) (by decide)
  case h_14 => cases h
  all_goals cases h; exact .goto _ (.of_same (by simp) (by simp) (by simp) (by simp) (by simp)) (by decide)

theorem execIdent_move (h : execIdent s = .next t) : CommandMove .ident s t := by
  unfold execIdent at h
  split at h
  case h_1 | h_9 | h_10 => cases h; exact .call fun ho => by simp_all [calls, State.stepNo]
  case h_11 => cases h; exact .complete 0 (by constructor <;> simp) (by decide)
  case h_12 => cases h
  case h_5 | h_6 | h_8 => split at h <;> cases h <;> exact .goto _ (by constructor <;> simp) (by decide)
  all_goals cases h; exact .goto _ (by constructor <;> simp) (by decide)

/-- One step of a host command's procedure. -/
theorem exec_move (hop : op.space = .command) (h : exec op s = .next t) : CommandMove op s t := by
  cases op with
  | ident => exact execIdent_move h
  | wren => exact execWren_move h
  | wrsr => exact execWrsr_move h
  | pp => exact execPp_move h
  | se => exact execSe_move h
  | reset => exact execReset_move h
  | erase => exact execErase_move h
  | wbuf => exact execWbuf_move h
  | rbuf => exact execRbuf_move h
  | rdid | spiWren | spoll | spiWrsr | spiPp | spiSe => cases hop

/-! ### The end of a procedure -/

@[simp] theorem State.finish_cmd (s : State) : s.finish.regs.cmd = s.regs.cmd := by
  unfold State.finish; split <;> rfl

@[simp] theorem State.finish_result0 (s : State) : s.finish.regs.result0 = s.regs.result0 := by
  unfold State.finish; split <;> rfl

@[simp] theorem State.finish_result1 (s : State) : s.finish.regs.result1 = s.regs.result1 := by
  unfold State.finish; split <;> rfl

/-! ### The data-window accesses leave the registers of the block -/

@[simp] theorem State.sent8_pos (s : State) (b : Byte) : (s.sent8 b).pos = s.pos := rfl
@[simp] theorem State.sent8_regs (s : State) (b : Byte) : (s.sent8 b).regs = s.regs := rfl
@[simp] theorem State.sent8_desc (s : State) (b : Byte) : (s.sent8 b).desc = s.desc := rfl
@[simp] theorem State.sent8_progress (s : State) (b : Byte) : (s.sent8 b).progress = s.progress := rfl
@[simp] theorem State.sent8_ctrl (s : State) (b : Byte) : (s.sent8 b).ctrl = s.ctrl := rfl
@[simp] theorem State.read8_pos (s : State) : s.read8.pos = s.pos := by simp [State.read8]
@[simp] theorem State.read8_regs (s : State) : s.read8.regs = s.regs := by simp [State.read8]
@[simp] theorem State.read8_desc (s : State) : s.read8.desc = s.desc := by simp [State.read8]
@[simp] theorem State.read8_progress (s : State) : s.read8.progress = s.progress := by simp [State.read8]
@[simp] theorem State.read8_ctrl (s : State) : s.read8.ctrl = s.ctrl := by simp [State.read8]
@[simp] theorem State.read32_pos (s : State) : s.read32.pos = s.pos := by simp [State.read32]
@[simp] theorem State.read32_regs (s : State) : s.read32.regs = s.regs := by simp [State.read32]
@[simp] theorem State.read32_desc (s : State) : s.read32.desc = s.desc := by simp [State.read32]
@[simp] theorem State.read32_progress (s : State) : s.read32.progress = s.progress := by simp [State.read32]
@[simp] theorem State.read32_ctrl (s : State) : s.read32.ctrl = s.ctrl := by simp [State.read32]

/-! ### What a step of a procedure leaves of the registers -/

/-- What a step of `op` leaves of the registers of the block that are not the position's (R11, R15 to R21, R33). -/
structure RegistersKept (op : Instr) (s t : State) : Prop where
  cmd : t.regs.cmd = s.regs.cmd
  result0 : op ≠ .erase → t.regs.result0 = s.regs.result0
  result1 : op ≠ .erase → t.regs.result1 = s.regs.result1
  progress : op ≠ .erase → t.progress = s.progress
  desc : op ≠ .ident → t.desc = s.desc

theorem RegistersKept.of_same (hr : t.regs = s.regs) (hg : t.progress = s.progress) (hd : t.desc = s.desc) :
    RegistersKept op s t := by
  constructor <;> simp [hr, hg, hd]

theorem RegistersKept.finish (op : Instr) (s : State) : RegistersKept op s s.finish := by constructor <;> simp

theorem CommandMove.registersKept (h : CommandMove op s t) : RegistersKept op s t := by
  cases h with
  | goto n hu =>
    constructor
    · simp [hu.cmd]
    all_goals intro ho; simp [hu.results, hu.progress, hu.desc, ho]
  | call => exact .of_same rfl rfl rfl
  | finish => exact .finish op s
  | complete rc hu =>
    constructor
    · simp [hu.cmd]
    all_goals intro ho; simp [hu.results, hu.progress, hu.desc, ho]

theorem TailCase.registersKept {tail : Tail} (h : TailCase tail s t) : RegistersKept op s t := by
  cases h <;> exact .of_same (by simp) (by simp) (by simp)

theorem TxnCase.registersKept {div : DivCode} {out : List Byte} {tail : Tail} (h : TxnCase div out tail s t) :
    RegistersKept op s t := by
  cases h with
  | t4 _ ht => exact ht.registersKept
  | done => exact .finish op s
  | _ => exact .of_same (by simp) (by simp) (by simp)

/-- The transaction a wire operation is, called as the frame says. -/
theorem exec_wire (hop : op.space = .wire) (s : State) :
    ∃ div out tail, exec op s = txnStep div out tail s ∧ out.length = headerLength op ∧
      (∀ src n, tail = .data src n → lastStep op = 10 ∧ op.format = .w4n ∧ n = s.frame.a1) := by
  cases op with
  | rdid | spiWren | spoll | spiWrsr | spiSe => exact ⟨_, _, _, rfl, rfl, fun _ _ h => by cases h⟩
  | spiPp => exact ⟨_, _, _, rfl, rfl, fun _ _ h => by cases h; exact ⟨rfl, rfl, rfl⟩⟩
  | ident | wren | wrsr | pp | se | reset | erase | wbuf | rbuf => cases hop

theorem exec_registersKept (h : exec op s = .next t) : RegistersKept op s t := by
  cases hsp : op.space with
  | command => exact (exec_move hsp h).registersKept
  | wire =>
    obtain ⟨div, out, tail, hx, -⟩ := exec_wire hsp s
    exact (txnStep_eq_next (hx ▸ h)).registersKept

end Sys2Proof.Machine
end

section
/-! That a step of a procedure keeps the clauses of the invariant about the position, the status bits and `CTRL`. -/

namespace Sys2Proof.Machine

variable {s t u : State} {f g : Frame} {fs : List Frame} {op : Instr}

/-! ### What a port action leaves of the memory, the parameters and `CTRL` -/

/-- A port action keeps the parameters and the form of the buffer, and writes `CTRL` only as the control write it
records (R28, R50). -/
structure PortKept (s t : State) : Prop where
  par : t.par = s.par
  buf : Memory.wf s.buf = true → Memory.wf t.buf = true
  ctrl : t.ctrl = s.ctrl ∨ t.trace = s.trace ++ [.ctrlWrite t.ctrl]

theorem PortStep.kept (h : PortStep s t) : PortKept s t := by
  cases h with
  | ctrlWrite w => exact ⟨by simp, by simp, .inr (by simp)⟩
  | bufWrite8 a b => exact ⟨rfl, Memory.wf_write _ _, .inl rfl⟩
  | dataRead8 => exact ⟨by simp [State.read8], by simp [State.read8], .inl (by simp)⟩
  | dataRead32 => exact ⟨by simp [State.read32], by simp [State.read32], .inl (by simp)⟩
  | winRead32 | winRead8 => exact ⟨by simp, by simp, .inl (by simp)⟩
  | delay | dataWrite8 | clkCfgRead | bufRead8 => exact ⟨rfl, id, .inl rfl⟩

theorem ProcStep.kept (h : ProcStep s t) : PortKept s t := by
  cases h with
  | internal h => exact ⟨h.par, fun hb => h.buf ▸ hb, .inl h.ctrl⟩
  | action u v hu ha ht =>
    obtain ⟨hpar, hbuf, hctrl⟩ := ha.kept
    rw [hu.par] at hpar
    rw [hu.buf] at hbuf
    rw [hu.ctrl, hu.trace] at hctrl
    exact ⟨ht.par.trans hpar, fun hb => ht.buf ▸ hbuf hb, by rw [ht.ctrl, ht.trace]; exact hctrl⟩

/-! ### The half of the invariant the position is in -/

/-- The clauses of `State.Inv` that speak of the position, the status bits and `CTRL`. -/
structure State.PosInv (s : State) : Prop where
  busy : s.regs.busy = !s.pos.isEmpty
  stack : stackOk s.pos = true
  window : s.inWindow = true → windowOpen s.ctrl = true
  ctrl : ctrlLegal s.ctrl = true
  rc : s.regs.rc ≠ 2

theorem State.Inv.posInv (hi : s.Inv) : s.PosInv := ⟨hi.busy, hi.stack, hi.window, hi.ctrl, hi.rc⟩

@[simp] theorem ctrlLegal_low (d : DivCode) : ctrlLegal (controlWord d .low .userMode) = true := by
  revert d; decide

@[simp] theorem ctrlLegal_high (d : DivCode) : ctrlLegal (controlWord d .high .userMode) = true := by
  revert d; decide

@[simp] theorem ctrlLegal_default (d : DivCode) : ctrlLegal (controlWord d .high .fastRead) = true := by
  revert d; decide

theorem State.inWindow_of_pos (h : s.pos = f :: fs) : s.inWindow = Machine.inWindow f := by simp [State.inWindow, h]

/-- While a procedure runs: the position is a good stack whose top has its window where it needs one. -/
theorem State.PosInv.of_running (hp : s.pos = f :: fs) (hb : s.regs.busy = true) (hs : stackOk (f :: fs) = true)
    (hw : Machine.inWindow f = true → windowOpen s.ctrl = true) (hc : ctrlLegal s.ctrl = true) (hr : s.regs.rc ≠ 2) :
    s.PosInv where
  busy := by simp [hb, hp]
  stack := hp ▸ hs
  window := by rwa [State.inWindow_of_pos hp]
  ctrl := hc
  rc := hr

theorem State.PosInv.of_idle (hp : s.pos = []) (hb : s.regs.busy = false) (hc : ctrlLegal s.ctrl = true)
    (hr : s.regs.rc ≠ 2) : s.PosInv where
  busy := by simp [hb, hp]
  stack := by rw [hp]; rfl
  window := by simp [State.inWindow, hp]
  ctrl := hc
  rc := hr

theorem State.PosInv.running (hi : s.PosInv) (hp : s.pos = f :: fs) :
    s.regs.busy = true ∧ stackOk (f :: fs) = true ∧ (Machine.inWindow f = true → windowOpen s.ctrl = true) := by
  have hb := hi.busy
  have hs := hi.stack
  have hw := hi.window
  rw [hp] at hb hs
  rw [State.inWindow_of_pos hp] at hw
  exact ⟨by simpa using hb, hs, hw⟩

/-- The innermost procedure stays what it is and moves on in its own steps. -/
theorem State.PosInv.moved (hi : s.PosInv) (hp : s.pos = f :: fs) (ht : t.pos = g :: fs) (ho : g.op = f.op)
    (hg : g.ok = true) (hb : t.regs.busy = s.regs.busy) (hr : t.regs.rc = s.regs.rc)
    (hw : Machine.inWindow g = true → windowOpen t.ctrl = true) (hc : ctrlLegal t.ctrl = true) : t.PosInv := by
  obtain ⟨hbusy, hs, -⟩ := hi.running hp
  exact .of_running ht (hb.trans hbusy) (stackOk_moved hs ho hg) hw hc (hr ▸ hi.rc)

theorem State.PosInv.called (hi : s.PosInv) (hp : s.pos = g :: fs) (hc : calls g op = true) (a0 a1 a2 : Word) :
    (s.call op a0 a1 a2).PosInv := by
  obtain ⟨hb, hs, -⟩ := hi.running hp
  refine .of_running (fs := g :: fs) (by rw [State.call_pos, hp]) hb
    (stackOk_called hs hc (frameOk_start op a0 a1 a2)) ?_ hi.ctrl hi.rc
  simp [inWindow_start]

theorem State.PosInv.completed (hc : ctrlLegal s.ctrl = true) {rc : BitVec 2} (hr : rc ≠ 2) : (s.complete rc).PosInv :=
  .of_idle rfl rfl hc hr

theorem State.PosInv.finished (hi : s.PosInv) (hp : s.pos = f :: fs) : s.finish.PosInv := by
  cases fs with
  | nil =>
    rw [State.finish_of_command hp]
    exact .completed hi.ctrl (by decide)
  | cons g gs =>
    obtain ⟨hb, hs, -⟩ := hi.running hp
    have hc : g.op.space = .command := by
      simp only [stackOk, Bool.and_eq_true] at hs
      exact (calls_caller hs.1.2).1
    rw [State.finish_of_called hp]
    refine .of_running rfl hb (stackOk_returned hs) ?_ hi.ctrl hi.rc
    simp [inWindow_command, hc]

theorem CommandMove.posInv (h : CommandMove f.op s t) (hi : s.PosInv) (hp : s.pos = f :: fs)
    (hsp : f.op.space = .command) : t.PosInv := by
  have legal {u : State} (hu : Prepared f.op s u) : ctrlLegal u.ctrl = true := by
    obtain hc | ⟨d, hc⟩ := hu.ctrl
    · rw [hc]; exact hi.ctrl
    · rw [hc]; exact ctrlLegal_default d
  cases h with
  | goto n hu hn =>
    refine hi.moved hp (State.goto_pos (hu.pos.trans hp) n) rfl (frameOk_command hsp hn.1 hn.2)
      (by simpa using hu.busy) (by simpa using hu.rc) ?_ (by simpa using legal hu)
    simp [inWindow_command, hsp]
  | call hc => exact hi.called hp (by simpa [State.frame_of_running hp] using hc) ..
  | finish => exact hi.finished hp
  | complete rc hu hrc => exact .completed (legal hu) hrc

/-! ### One step of a transaction keeps it -/

theorem headerLength_wire (hsp : op.space = .wire) : 0 < headerLength op := by
  cases op <;> simp [Instr.space, headerLength] at *

/-- A transaction goes to another of its steps, its loop counter inside the loop there. -/
theorem State.PosInv.wireMoved (hi : s.PosInv) (hp : s.pos = f :: fs) (hpu : u.pos = s.pos) (hr : u.regs = s.regs)
    {n k : Nat} (hk : ({ f with step := n, k := k } : Frame).ok = true) (hc : ctrlLegal u.ctrl = true)
    (hw : (2 ≤ n ∧ n ≤ 6) ∨ n = 9 ∨ n = 10 → windowOpen u.ctrl = true) : (u.gotoWith k n).PosInv := by
  refine hi.moved hp (State.gotoWith_pos (hpu.trans hp) k n) rfl hk (by simp [hr]) (by simp [hr]) ?_ (by simpa using hc)
  intro h
  simp only [Machine.inWindow, Bool.decide_and, Bool.and_eq_true, decide_eq_true_eq] at h
  simpa using hw h.2

/-- The same inside the window, at a step that leaves `CTRL`. -/
theorem State.PosInv.windowMoved (hi : s.PosInv) (hp : s.pos = f :: fs) (ho : windowOpen s.ctrl = true)
    (hpu : u.pos = s.pos) (hr : u.regs = s.regs) (hc : u.ctrl = s.ctrl) {n k : Nat}
    (hk : ({ f with step := n, k := k } : Frame).ok = true) : (u.gotoWith k n).PosInv :=
  hi.wireMoved hp hpu hr hk (hc ▸ hi.ctrl) fun _ => hc ▸ ho

/-- `goto` keeps the loop counter. -/
theorem State.goto_eq_gotoWith (hp : u.pos = f :: fs) (n : Nat) : u.goto n = u.gotoWith f.k n := by
  rw [State.goto_eq hp, State.gotoWith_eq hp]

/-- The tail stays in the window; a data byte is fetched only while there is one left (R122 step G8). -/
theorem TailCase.posInv {tail : Tail} (h : TailCase tail s t) (hi : s.PosInv) (hp : s.pos = f :: fs)
    (hsp : f.op.space = .wire) (hn : f.step = 5) (ho : windowOpen s.ctrl = true)
    (hd : ∀ src n, tail = .data src n → lastStep f.op = 10 ∧ f.op.format = .w4n ∧ n = f.a1) : t.PosInv := by
  obtain ⟨-, hs, -⟩ := hi.running hp
  have hl := lastStep_wire hsp
  obtain ⟨-, -, -, hk5⟩ := (frameOk_wire hsp).1 (stackOk_top hs)
  have h6 : ({ f with step := 6 } : Frame).ok = true := by simp [frameOk_wire, hsp]; omega
  cases h with
  | none | dataEnd =>
    rw [State.goto_eq_gotoWith hp]
    exact hi.windowMoved hp ho rfl rfl rfl h6
  | pollMet =>
    rw [State.goto_eq_gotoWith (by simpa using hp)]
    exact hi.windowMoved hp ho (by simp) (by simp) (by simp) h6
  | pollAgain =>
    exact hi.moved hp (by simpa using hp) rfl (stackOk_top hs) (by simp) (by simp) (by simp [ho])
      (by simpa using hi.ctrl)
  | read24 =>
    rw [State.goto_eq_gotoWith (by simpa using hp)]
    exact hi.windowMoved hp ho (by simp) (by simp) (by simp) h6
  | dataFetch ht hk =>
    obtain ⟨hl', hf, hn'⟩ := hd _ _ ht
    rw [State.frame_of_running hp, hn'] at hk
    have hk' := hk5 ⟨hn, hf⟩
    rw [State.goto_eq_gotoWith (by simpa using hp)]
    refine hi.windowMoved hp ho (by rfl) (by rfl) (by rfl) ?_
    simp [frameOk_wire, hsp]; omega

/-- Step T1 opens the window and T5 closes it; every step between them leaves `CTRL` (R86). -/
theorem TxnCase.posInv {div : DivCode} {out : List Byte} {tail : Tail} (h : TxnCase div out tail s t) (hi : s.PosInv)
    (hp : s.pos = f :: fs) (hsp : f.op.space = .wire) (hlen : out.length = headerLength f.op)
    (hd : ∀ src n, tail = .data src n → lastStep f.op = 10 ∧ f.op.format = .w4n ∧ n = f.a1) : t.PosInv := by
  obtain ⟨-, hs, hw⟩ := hi.running hp
  have hl := lastStep_wire hsp
  have hlpos : 0 < headerLength f.op := headerLength_wire hsp
  obtain ⟨-, hk3, hk9, -⟩ := (frameOk_wire hsp).1 (stackOk_top hs)
  have hn : s.stepNo = f.step := State.stepNo_of_running hp
  have hfr : s.frame = f := State.frame_of_running hp
  have ho (hin : (2 ≤ s.stepNo ∧ s.stepNo ≤ 6) ∨ s.stepNo = 9 ∨ s.stepNo = 10) : windowOpen s.ctrl = true :=
    hw (by simpa [Machine.inWindow, hsp, hn] using hin)
  cases h with
  | t1 =>
    rw [State.goto_eq_gotoWith (by simpa using hp)]
    refine hi.wireMoved hp (by simp) (by simp) ?_ (by simp) (by simp)
    simp [frameOk_wire, hsp]; omega
  | t2 h2 =>
    refine hi.windowMoved hp (ho (by omega)) (by rfl) (by rfl) (by rfl) ?_
    simp [frameOk_wire, hsp]; omega
  | t3a h3 =>
    rw [State.goto_eq_gotoWith (by simpa using hp)]
    refine hi.windowMoved hp (ho (by omega)) (by rfl) (by rfl) (by rfl) ?_
    simp [frameOk_wire, hsp]; omega
  | t3bMore h4 hk =>
    rw [hfr] at hk ⊢
    refine hi.windowMoved hp (ho (by omega)) (by rfl) (by rfl) (by rfl) ?_
    simp [frameOk_wire, hsp]; omega
  | t3bLast h4 =>
    refine hi.windowMoved hp (ho (by omega)) (by rfl) (by rfl) (by rfl) ?_
    simp [frameOk_wire, hsp]; omega
  | t4 h5 ht => exact ht.posInv hi hp hsp (by omega) (ho (by omega)) hd
  | t5 =>
    rw [State.goto_eq_gotoWith (by simpa using hp)]
    refine hi.wireMoved hp (by simp) (by simp) ?_ (by simp) (by simp)
    simp [frameOk_wire, hsp]; omega
  | t6 =>
    rw [State.goto_eq_gotoWith (by simpa using hp)]
    refine hi.wireMoved hp (by rfl) (by rfl) ?_ hi.ctrl (by simp)
    simp [frameOk_wire, hsp]; omega
  | done => exact hi.finished hp
  | g9Send h9 ht =>
    obtain ⟨hl', -⟩ := hd _ _ ht
    rw [State.goto_eq_gotoWith (by simpa using hp)]
    refine hi.windowMoved hp (ho (by omega)) (by rfl) (by rfl) (by rfl) ?_
    simp [frameOk_wire, hsp]; omega
  | g9Settle h10 ht =>
    obtain ⟨hl', -⟩ := hd _ _ ht
    rw [hfr]
    refine hi.windowMoved hp (ho (by omega)) (by rfl) (by rfl) (by rfl) ?_
    simp [frameOk_wire, hsp]; omega

/-- One step of any procedure. -/
theorem exec_posInv (hi : s.PosInv) (hp : s.pos = f :: fs) (h : exec f.op s = .next t) : t.PosInv := by
  cases hsp : f.op.space with
  | command => exact (exec_move hsp h).posInv hi hp hsp
  | wire =>
    obtain ⟨div, out, tail, hx, hlen, hd⟩ := exec_wire hsp s
    rw [State.frame_of_running hp] at hd
    exact (txnStep_eq_next (hx ▸ h)).posInv hi hp hsp hlen hd

end Sys2Proof.Machine
end

section
/-! The clauses of the invariant about the descriptor, and that a step of a procedure keeps them all. -/

namespace Sys2Proof.Machine

variable {s t : State} {f : Frame} {fs : List Frame} {op : Instr}

/-! ### IDENT and the descriptor -/

/-- The clauses of `State.Inv` about the descriptor (R17, R24). -/
def Descriptor.Ok (d : Descriptor) : Prop := d.id.toNat < 2 ^ 24 ∧ d.nsect.toNat * d.secsz.toNat ≤ d.size.toNat

/-- The row IDENT copies is one of the table. -/
theorem State.row_fits {r : PartRow} (ht : s.par.table.all PartRow.fits = true) (h : s.row = some r) :
    r.sectors.toNat * r.eraseSize.toNat ≤ r.capacity.toNat := by
  have hr := List.all_eq_true.1 ht r (List.mem_of_find?_eq_some h)
  simpa [PartRow.fits] using hr

theorem execIdent_descriptorOk (ht : s.par.table.all PartRow.fits = true) (hd : s.desc.Ok) (h : execIdent s = .next t) :
    t.desc.Ok := by
  obtain ⟨hid, hgeo⟩ := hd
  unfold execIdent at h
  split at h
  case h_2 =>
    cases h
    refine ⟨?_, by simpa using hgeo⟩
    have := (idOfWord s.work.word).isLt
    simp only [State.goto_desc, BitVec.toNat_setWidth]
    omega
  case h_5 =>
    split at h <;> cases h
    · exact ⟨by simpa [unknownPart] using hid, by simp [unknownPart]⟩
    · exact ⟨by simpa using hid, by simpa using hgeo⟩
  case h_6 =>
    split at h <;> cases h
    · exact ⟨by simpa using hid, by simpa using hgeo⟩
    · next r hr => exact ⟨by simpa [copyRow] using hid, by simpa [copyRow] using State.row_fits ht hr⟩
  case h_8 =>
    split at h <;> cases h
    · exact ⟨by simpa using hid, by simpa using hgeo⟩
    · exact ⟨by simpa [calibrated] using hid, by simpa [calibrated] using hgeo⟩
  case h_12 => cases h
  all_goals cases h; exact ⟨by simpa using hid, by simpa using hgeo⟩

theorem exec_descriptorOk (ht : s.par.table.all PartRow.fits = true) (hd : s.desc.Ok) (h : exec op s = .next t) :
    t.desc.Ok := by
  by_cases hop : op = .ident
  · subst hop; exact execIdent_descriptorOk ht hd h
  · rw [(exec_registersKept h).desc hop]; exact hd

/-! ### The invariant, clause by clause -/

/-- The invariant in its parts: the position's half, `CMD`, the descriptor, the parameters and the buffer. -/
theorem State.Inv.of_parts (hp : s.PosInv) (hcmd : s.regs.cmd.toNat < 2 ^ 8) (hd : s.desc.Ok)
    (ht : s.par.table.all PartRow.fits = true) (hb : Memory.wf s.buf = true) : s.Inv where
  busy := hp.busy
  stack := hp.stack
  window := hp.window
  ctrl := hp.ctrl
  rc := hp.rc
  cmd := hcmd
  id := hd.1
  table := ht
  geometry := hd.2
  buf := hb

theorem State.Inv.descriptorOk (hi : s.Inv) : s.desc.Ok := ⟨hi.id, hi.geometry⟩

theorem exec_inv (hi : s.Inv) (hp : s.pos = f :: fs) (h : exec f.op s = .next t) : t.Inv := by
  have hk := (exec_procStep h).kept
  exact .of_parts (exec_posInv hi.posInv hp h) ((exec_registersKept h).cmd ▸ hi.cmd)
    (exec_descriptorOk hi.table hi.descriptorOk h) (hk.par ▸ hi.table) (hk.buf hi.buf)

end Sys2Proof.Machine
end

section
/-! What the host can do (10_state.md R11 to R27): its actions, case by case, and what one step makes of each. -/

namespace Sys2Proof.Machine

variable {s t : State} {i : Instr} {w : Word} {a : HostAction} {r : HostReg} {rest : List HostAction}

/-! ### What a host action can do -/

/-- Every host action does one of these: the reset input, the issue of a command, the write of the registers the host
may write, a flag, a read, a byte of the buffer, the clock register, or nothing. -/
inductive HostCase (a : HostAction) (s : State) : State → Prop where
  | hwReset (ha : a = .hwReset) : HostCase a s s.hwReset
  | issue (w : Word) (hb : s.regs.busy = false) : HostCase a s (s.issue w)
  | registers (a0 a1 a2 base idx : Word) : HostCase a s
      { s with regs := { s.regs with arg0 := a0, arg1 := a1, arg2 := a2, bankBase := base, protIdx := idx } }
  | flags (p : List Bool) : HostCase a s { s with prot := p }
  | read (w : Word) : HostCase a s { s with hostData := w }
  | store (d : Word) (b : Byte) : HostCase a s { s with buf := Memory.write s.buf d.toNat b }
  | clock (w : Word) : HostCase a s { s with clkCfg := w }
  | nothing : HostCase a s s

theorem writeReg_cases (h : writeReg s r w = .next t) : HostCase a s t := by
  cases r with
  | cmd =>
    simp only [writeReg] at h
    split at h <;> cases h
    next hb => exact .issue w (by simpa using hb)
  | bankBase =>
    simp only [writeReg] at h
    split at h <;> cases h
    exact .registers _ _ _ w _
  | protData =>
    simp only [writeReg] at h
    split at h
    · cases h; exact .nothing
    · split at h <;> cases h
      exact .flags _
  | arg0 => cases h; exact .registers w ..
  | arg1 => cases h; exact .registers _ w ..
  | arg2 => cases h; exact .registers _ _ w ..
  | protIdx => cases h; exact .registers _ _ _ _ w
  | status | result0 | result1 | id | size | nsect | secsz | divs | dflags => cases h; exact .nothing

theorem hostStep_cases (h : hostStep s a = .next t) : HostCase a s t := by
  cases a with
  | write off w =>
    simp only [hostStep] at h
    split at h
    · exact writeReg_cases h
    · cases h
  | read off =>
    simp only [hostStep] at h
    split at h <;> cases h
    exact .read _
  | wait | pass => cases h; exact .nothing
  | hwReset => cases h; exact .hwReset rfl
  | store d b => cases h; exact .store d b
  | clock w => cases h; exact .clock w

/-! ### The issue of a command -/

@[simp] theorem State.issue_desc (s : State) (w : Word) : (s.issue w).desc = s.desc := by
  unfold State.issue; split <;> rfl
@[simp] theorem State.issue_ctrl (s : State) (w : Word) : (s.issue w).ctrl = s.ctrl := by
  unfold State.issue; split <;> rfl
@[simp] theorem State.issue_par (s : State) (w : Word) : (s.issue w).par = s.par := by
  unfold State.issue; split <;> rfl
@[simp] theorem State.issue_buf (s : State) (w : Word) : (s.issue w).buf = s.buf := by
  unfold State.issue; split <;> rfl
@[simp] theorem State.issue_result0 (s : State) (w : Word) : (s.issue w).regs.result0 = s.regs.result0 := by
  unfold State.issue; split <;> rfl
@[simp] theorem State.issue_result1 (s : State) (w : Word) : (s.issue w).regs.result1 = s.regs.result1 := by
  unfold State.issue; split <;> rfl
@[simp] theorem State.issue_cmd (s : State) (w : Word) : (s.issue w).regs.cmd = (commandCode w).setWidth 32 := by
  unfold State.issue; split <;> rfl

theorem State.issue_legal (h : decodeCommand w = some i) :
    s.issue w = { s with regs.cmd := (commandCode w).setWidth 32 }.enter i := by simp [State.issue, h]

theorem State.issue_illegal (h : decodeCommand w = none) :
    s.issue w = { s with regs.cmd := (commandCode w).setWidth 32 }.complete 3 := by simp [State.issue, h]

/-- A command starts at its step 1, its arguments in the frame. -/
theorem firstFrame_start (s : State) (i : Instr) : ∃ a0 a1 a2, firstFrame s i = Frame.start i a0 a1 a2 := by
  cases i <;> exact ⟨_, _, _, rfl⟩

theorem State.enter_posInv (hc : ctrlLegal s.ctrl = true) (i : Instr) : (s.enter i).PosInv := by
  obtain ⟨a0, a1, a2, hf⟩ := firstFrame_start s i
  exact .of_running (fs := []) (by rw [State.enter_pos, hf]) rfl (frameOk_start i a0 a1 a2)
    (by simp [inWindow_start]) hc (by simp)

theorem State.issue_posInv (hc : ctrlLegal s.ctrl = true) (w : Word) : (s.issue w).PosInv := by
  cases hw : decodeCommand w with
  | some i => rw [State.issue_legal hw]; exact State.enter_posInv (by exact hc) i
  | none => rw [State.issue_illegal hw]; exact .completed (rc := 3) (by exact hc) (by decide)

/-! ### Every step keeps the invariant -/

theorem HostCase.inv (h : HostCase a s t) (hi : s.Inv) : t.Inv := by
  cases h with
  | hwReset =>
    have hr : HostRegs.reset.rc ≠ 2 := by decide
    have hd : Descriptor.reset.Ok := by constructor <;> decide
    exact .of_parts (.of_idle rfl rfl hi.ctrl hr) (Nat.two_pow_pos 8) hd hi.table hi.buf
  | issue w =>
    refine .of_parts (State.issue_posInv hi.ctrl w) ?_ (by simpa using hi.descriptorOk) (by simpa using hi.table)
      (by simpa using hi.buf)
    have := (commandCode w).isLt
    simp only [State.issue_cmd, BitVec.toNat_setWidth]
    omega
  | store d b => exact { hi with buf := Memory.wf_write _ _ hi.buf }
  | registers | flags | read | clock => exact { hi with }
  | nothing => exact hi

/-- Settles O56, agent by agent: a host action by its cases, the sequencer by the step of its innermost procedure. -/
theorem stepKeepsTheInvariant : Obligations.StepKeepsTheInvariant := by
  unfold Obligations.StepKeepsTheInvariant
  intro s t hi h
  have of_host (r : List HostAction) : ({ s with host := r } : State).Inv := { hi with }
  cases step_cases h with
  | idle _ ht =>
    obtain rfl | ⟨_, r, _, rfl⟩ := ht
    · exact hi
    · exact of_host r
  | waited _ r _ ht => exact ht ▸ of_host r
  | sequencer f fs r hp _ ht =>
    exact exec_inv (s := { s with host := r, timer := 0, progress := false }) { hi with } hp ht
  | host a r _ ht => exact (hostStep_cases ht).inv (of_host r)

end Sys2Proof.Machine
end

section
/-! Who writes the descriptor, the result registers, `PROGRESS` and `CTRL` (10_state.md R15 to R21, R28, R33), and where
the sectors of the part lie (R23, R24). -/

namespace Sys2Proof.Machine

variable {s t : State} {f : Frame} {fs : List Frame} {a : HostAction}

/-! ### The host's share -/

/-- Of the host's actions only the reset input changes the descriptor or the results. -/
theorem HostCase.keeps (h : HostCase a s t) : a = .hwReset ∨
    (t.desc = s.desc ∧ t.regs.result0 = s.regs.result0 ∧ t.regs.result1 = s.regs.result1) := by
  cases h with
  | hwReset ha => exact .inl ha
  | issue w => exact .inr (by simp)
  | registers | flags | read | store | clock | nothing => exact .inr ⟨rfl, rfl, rfl⟩

/-- The host writes neither `CTRL` nor the parameters. -/
theorem HostCase.par_ctrl (h : HostCase a s t) : t.par = s.par ∧ t.ctrl = s.ctrl := by
  cases h with
  | issue w => simp
  | hwReset | registers | flags | read | store | clock | nothing => exact ⟨rfl, rfl⟩

/-! ### One writer each -/

/-- A step that is neither the reset input nor a step of a procedure changes none of these registers; a step of a
procedure changes them as that procedure may. -/
theorem step_writer (h : step s = .next t) :
    (t.desc = s.desc ∧ t.regs.result0 = s.regs.result0 ∧ t.regs.result1 = s.regs.result1) ∨
    (∃ rest, s.host = .hwReset :: rest) ∨
    (∃ f fs, s.pos = f :: fs ∧ (f.op ≠ .ident → t.desc = s.desc) ∧
      (f.op ≠ .erase → t.regs.result0 = s.regs.result0 ∧ t.regs.result1 = s.regs.result1)) := by
  cases step_cases h with
  | idle _ ht =>
    obtain rfl | ⟨_, _, _, rfl⟩ := ht <;> exact .inl ⟨rfl, rfl, rfl⟩
  | waited _ _ _ ht => exact .inl (by simp [ht])
  | sequencer f fs r hp _ ht =>
    have hk := exec_registersKept ht
    exact .inr (.inr ⟨f, fs, hp, hk.desc, fun ho => ⟨hk.result0 ho, hk.result1 ho⟩⟩)
  | host a r hh ht =>
    obtain rfl | hk := (hostStep_cases ht).keeps
    · exact .inr (.inl ⟨r, hh⟩)
    · exact .inl hk

/-- Settles O51, from what a step of each agent writes. -/
theorem descriptorAndResultsHaveOneWriter : Obligations.DescriptorAndResultsHaveOneWriter := by
  unfold Obligations.DescriptorAndResultsHaveOneWriter
  intro s t h
  obtain ⟨hd, h0, h1⟩ | hr | ⟨f, fs, hp, hd, hres⟩ := step_writer h
  · exact ⟨fun hne => absurd hd hne, fun hne => absurd hne (by simp [h0, h1])⟩
  · exact ⟨fun _ => .inr hr, fun _ => .inr hr⟩
  · refine ⟨fun hne => .inl ⟨f, fs, hp, ?_⟩, fun hne => .inl ⟨f, fs, hp, ?_⟩⟩
    · exact Decidable.byContradiction fun ho => hne (hd ho)
    · refine Decidable.byContradiction fun ho => ?_
      obtain ⟨h0, h1⟩ := hres ho
      exact hne.elim (· h0) (· h1)

/-- Settles O52: the host writes neither, a port action writes `CTRL` only as a control write, and nothing writes the
parameters. -/
theorem controlRegisterHasOneWriter : Obligations.ControlRegisterHasOneWriter := by
  unfold Obligations.ControlRegisterHasOneWriter
  intro s t h
  cases step_cases h with
  | idle _ ht =>
    obtain rfl | ⟨_, _, _, rfl⟩ := ht <;> exact ⟨rfl, fun hne => absurd rfl hne⟩
  | waited _ _ _ ht => subst ht; exact ⟨rfl, fun hne => absurd rfl hne⟩
  | sequencer f fs r _ _ ht =>
    have hk := (exec_procStep ht).kept
    exact ⟨hk.par, fun hne => hk.ctrl.resolve_left hne⟩
  | host a r _ ht =>
    obtain ⟨hp, hc⟩ := (hostStep_cases ht).par_ctrl
    exact ⟨hp, fun hne => absurd hc hne⟩

/-! ### PROGRESS -/

/-- The step of ERASE after a sector's erase (R143 step A5). -/
theorem execErase_counts (h : s.stepNo = 6) : execErase s =
    .next ({ s with regs.result1 := s.regs.result1 + 1, progress := true }.goto 7) := by
  simp [execErase, h]

/-- No other step of ERASE starts a pulse. -/
theorem execErase_progress (h : execErase s = .next t) (hn : s.stepNo ≠ 6) : t.progress = s.progress := by
  unfold execErase at h
  split at h
  case h_6 => contradiction
  all_goals
    repeat' split at h
    all_goals cases h
    all_goals simp

/-- Settles O54: only step A5 of ERASE sets `PROGRESS`, and every step of the sequencer ends the pulse before it. -/
theorem progressPulsesForEachSector : Obligations.ProgressPulsesForEachSector := by
  unfold Obligations.ProgressPulsesForEachSector
  constructor
  · intro s f fs hp hn
    exact ⟨_, execErase_counts (by rw [State.stepNo_of_running hp, hn]), by simp, by simp, by simp⟩
  · intro s t f fs hh hp h ht
    rw [step_of_running hh hp] at h
    have pulse : t.progress ≠ s.elapse.progress := by rw [ht, State.elapse_progress]; decide
    have hop : f.op = .erase := Decidable.byContradiction fun ho => pulse ((exec_registersKept h).progress ho)
    rw [hop] at h
    have hn : s.elapse.stepNo = 6 := Decidable.byContradiction fun hn => pulse (execErase_progress h hn)
    have hu := execErase_counts hn
    rw [show execErase s.elapse = .next t from h] at hu
    cases hu
    exact ⟨hop, by rw [← State.stepNo_of_running (s := s.elapse) hp, hn], by simp⟩

/-! ### Sectors -/

/-- Settles O10: `(i + 1) * SECSZ` is at most `NSECT * SECSZ`, which the invariant bounds by `SIZE`: nothing
wraps. -/
theorem sectorsLieInsideThePart : Obligations.SectorsLieInsideThePart := by
  unfold Obligations.SectorsLieInsideThePart
  intro s i hi hlt
  have hfit : i.toNat * s.desc.secsz.toNat + s.desc.secsz.toNat ≤ s.desc.size.toNat := by
    calc i.toNat * s.desc.secsz.toNat + s.desc.secsz.toNat
      _ = (i.toNat + 1) * s.desc.secsz.toNat := by rw [Nat.succ_mul]
      _ ≤ s.desc.nsect.toNat * s.desc.secsz.toNat := Nat.mul_le_mul_right _ hlt
      _ ≤ s.desc.size.toNat := hi.geometry
  have hoff : (s.sectorStart i - s.regs.bankBase).toNat = i.toNat * s.desc.secsz.toNat := by
    have hcancel : s.sectorStart i - s.regs.bankBase = i * s.desc.secsz := by
      rw [State.sectorStart, sectorOffset, BitVec.add_comm, BitVec.add_sub_cancel]
    rw [hcancel, BitVec.toNat_mul, Nat.mod_eq_of_lt]
    have := s.desc.size.isLt
    omega
  exact ⟨hoff, hoff ▸ hfit, rfl⟩

end Sys2Proof.Machine
end

section
/-! The register file, the host's accesses to it (10_state.md R11 to R22, R27, R33), and where the sequencer takes its
next step from (R25). -/

namespace Sys2Proof.Machine

variable {s t : State} {f : Frame} {fs : List Frame} {w off v : Word} {r : HostReg} {i : Instr} {rest : List HostAction}

/-! ### Fields of the flag words -/

theorem statusWord_fields (r : HostRegs) :
    (statusWord r).getLsbD 0 = r.busy ∧ (statusWord r).getLsbD 1 = r.done ∧ (statusWord r).extractLsb' 4 2 = r.rc ∧
    statusWord r &&& 0xFFFFFFCC#32 = 0#32 := by
  have fields (busy done : Bool) (rc : BitVec 2) :
      let w := bit busy ||| (bit done <<< 1) ||| (rc.setWidth 32 <<< 4)
      w.getLsbD 0 = busy ∧ w.getLsbD 1 = done ∧ w.extractLsb' 4 2 = rc ∧ w &&& 0xFFFFFFCC#32 = 0#32 := by
    revert busy done rc
    decide
  exact fields r.busy r.done r.rc

theorem dflagsWord_fields (d : Descriptor) :
    (dflagsWord d).getLsbD 0 = d.unknown ∧ (dflagsWord d).getLsbD 1 = d.calSat ∧
    (dflagsWord d).getLsbD 2 = d.identified ∧ dflagsWord d &&& 0xFFFFFFF8#32 = 0#32 := by
  have fields (unknown calSat identified : Bool) :
      let w := bit unknown ||| (bit calSat <<< 1) ||| (bit identified <<< 2)
      w.getLsbD 0 = unknown ∧ w.getLsbD 1 = calSat ∧ w.getLsbD 2 = identified ∧ w &&& 0xFFFFFFF8#32 = 0#32 := by
    revert unknown calSat identified
    decide
  exact fields d.unknown d.calSat d.identified

/-- The fields of a word as `DIVS` has them, and its other bits (R21). -/
def divsFields (w : Word) : DivCode × DivCode × DivCode × Byte × Word :=
  (w.extractLsb' 0 3, w.extractLsb' 4 3, w.extractLsb' 8 3, w.extractLsb' 16 8, w &&& 0xFF00F888#32)

theorem divsFields_wdiv : ∀ c : DivCode, divsFields (c.setWidth 32) = (c, 0, 0, 0, 0) := by decide

theorem divsFields_ediv : ∀ c : DivCode, divsFields (c.setWidth 32 <<< 4) = (0, c, 0, 0, 0) := by decide

theorem divsFields_rdiv : ∀ c : DivCode, divsFields (c.setWidth 32 <<< 8) = (0, 0, c, 0, 0) := by decide

theorem divsFields_dummy : ∀ b : Byte, divsFields (b.setWidth 32 <<< 16) = (0, 0, 0, b, 0) := by decide

/-- The fields of `DIVS` do not overlap. -/
theorem divsWord_fields (d : Descriptor) :
    (divsWord d).extractLsb' 0 3 = d.wdiv ∧ (divsWord d).extractLsb' 4 3 = d.ediv ∧
    (divsWord d).extractLsb' 8 3 = d.rdiv ∧ (divsWord d).extractLsb' 16 8 = d.dummy ∧
    divsWord d &&& 0xFF00F888#32 = 0#32 := by
  have hw := divsFields_wdiv d.wdiv
  have he := divsFields_ediv d.ediv
  have hr := divsFields_rdiv d.rdiv
  have hd := divsFields_dummy d.dummy
  simp only [divsFields, Prod.mk.injEq] at hw he hr hd
  simp only [divsWord, BitVec.extractLsb'_or, BitVec.and_or_distrib_right, hw, he, hr, hd]
  simp only [BitVec.ofNat_eq_ofNat, BitVec.or_zero, BitVec.zero_or, and_self]

/-- Settles O6, one word after the other. -/
theorem statusWordsHaveTheirFields : Obligations.StatusWordsHaveTheirFields :=
  ⟨statusWord_fields, divsWord_fields, dflagsWord_fields⟩

/-! ### Host accesses -/

theorem regAt_offset (r : HostReg) : regAt (regOffset r) = some r := by cases r <;> rfl

theorem step_of_write (r : HostReg) (hh : s.host = .write (regOffset r) v :: rest) :
    step s = writeReg { s with host := rest } r v := by
  simp [step, move, hh, hostStep, regAt_offset]

theorem step_of_read (r : HostReg) (hh : s.host = .read (regOffset r) :: rest) :
    step s = .next { s with host := rest, hostData := readReg s r } := by
  simp only [step, move, hh, hostStep, regAt_offset]
  cases r <;> rfl

/-- Settles O16: each register's own write. -/
theorem registerWritesChangeTheRegisterOnly : Obligations.RegisterWritesChangeTheRegisterOnly := by
  unfold Obligations.RegisterWritesChangeTheRegisterOnly
  intro s v rest
  refine ⟨step_of_write .arg0, step_of_write .arg1, step_of_write .arg2, step_of_write .protIdx, fun hb hh => ?_⟩
  rw [step_of_write .bankBase hh]
  simp [writeReg, hb]

/-- The registers a write leaves alone (R27). -/
def readOnlyRegs : List HostReg := [.status, .result0, .result1, .id, .size, .nsect, .secsz, .divs, .dflags]

theorem writeReg_readOnly (hr : r ∈ readOnlyRegs) (s : State) (v : Word) : writeReg s r v = .next s := by
  cases r with
  | status | result0 | result1 | id | size | nsect | secsz | divs | dflags => rfl
  | cmd | arg0 | arg1 | arg2 | bankBase | protIdx | protData => exact absurd hr (by decide)

/-- Settles O17: the sixteen offsets and words of the statement are those of `hostRegs`, in its order. -/
theorem registerFileFollowsTheMap : Obligations.RegisterFileFollowsTheMap := by
  unfold Obligations.RegisterFileFollowsTheMap
  constructor
  · intro s off v rest hm hh
    change (off, v) ∈ hostRegs.map fun r => (regOffset r, readReg s r) at hm
    obtain ⟨r, _, he⟩ := List.mem_map.1 hm
    cases he
    exact step_of_read r hh
  · intro s off v rest hm hh
    change off ∈ readOnlyRegs.map regOffset at hm
    obtain ⟨r, hr, rfl⟩ := List.mem_map.1 hm
    rw [step_of_write r hh, writeReg_readOnly hr]

/-! ### The protected flags -/

theorem protAt_set_same {p : List Bool} {k : Nat} (h : k < p.length) (b : Bool) : protAt (p.set k b) k = b := by
  simp [protAt, h]

theorem protAt_set_other (p : List Bool) {j k : Nat} (h : j ≠ k) (b : Bool) : protAt (p.set k b) j = protAt p j := by
  simp [protAt, List.getElem?_set_ne h.symm]

theorem protAt_beyond {p : List Bool} {k : Nat} (h : p.length ≤ k) : protAt p k = false := by
  simp [protAt, h]

/-- Settles O18, on the two sides of the last flag. -/
theorem protectedFlagWindow : Obligations.ProtectedFlagWindow := by
  unfold Obligations.ProtectedFlagWindow
  intro s v rest hb hh
  have hstep := step_of_write .protData hh
  rcases Nat.lt_or_ge s.regs.protIdx.toNat s.prot.length with hlt | hge
  · have hbusy : s.regs.busy = false := hb.resolve_right (Nat.not_le.2 hlt)
    refine ⟨{ s with host := rest, prot := s.prot.set s.regs.protIdx.toNat (v.getLsbD 0) }, ?_, by simp, rfl, rfl, rfl,
      fun j hj => protAt_set_other _ hj _, fun _ => ?_, fun hle => absurd hlt (Nat.not_lt.2 hle)⟩
    · rw [hstep]
      simp [writeReg, hbusy, Nat.not_le.2 hlt]
    · have hset := protAt_set_same hlt (v.getLsbD 0)
      exact ⟨hset, congrArg bit hset⟩
  · refine ⟨{ s with host := rest }, ?_, rfl, rfl, rfl, rfl, fun _ _ => rfl, fun hlt => absurd hge (Nat.not_le.2 hlt),
      fun _ => ⟨rfl, congrArg bit (protAt_beyond hge)⟩⟩
    rw [hstep]
    simp [writeReg, hge]

/-! ### The issue of a command -/

theorem commandCode_setWidth (w : Word) : (commandCode w).setWidth 32 = w &&& 0xFF#32 := by
  apply BitVec.eq_of_toNat_eq
  have hand : w.toNat &&& 255 % 2 ^ 32 = w.toNat % 2 ^ 8 := Nat.and_two_pow_sub_one_eq_mod w.toNat 8
  simp only [commandCode, BitVec.toNat_setWidth, BitVec.extractLsb'_toNat, Nat.shiftRight_zero, BitVec.toNat_and,
    BitVec.toNat_ofNat]
  omega

/-- Settles O13: the write leads to `State.issue`, which enters the command. -/
theorem commandWriteIssuesTheCommand : Obligations.CommandWriteIssuesTheCommand := by
  unfold Obligations.CommandWriteIssuesTheCommand
  intro s w rest i hh hb hd
  have hstep : step s = .next (State.issue { s with host := rest } w) := by
    rw [step_of_write .cmd hh]
    simp [writeReg, hb]
  rw [State.issue_legal hd, commandCode_setWidth] at hstep
  obtain ⟨a0, a1, a2, hf⟩ := firstFrame_start { s with host := rest, regs.cmd := w &&& 0xFF#32 } i
  refine ⟨_, _, hstep, rfl, by rw [hf]; rfl, by rw [hf]; rfl, by rw [hf]; rfl, rfl, rfl, ?_, ?_, ?_, rfl, rfl, rfl, rfl,
    rfl, rfl, rfl⟩
  · rintro rfl; rfl
  · rintro rfl; exact ⟨rfl, rfl, rfl⟩
  · rintro rfl; rfl

/-! ### The sequencer's next step -/

theorem step_of_pass (hh : s.host = .pass :: rest) (hp : s.pos = f :: fs) :
    step s = exec f.op { s with host := rest, timer := 0, progress := false } := by
  simp [step, move, hh, seqMove, hp, State.elapse]

theorem step_of_wait_busy (hh : s.host = .wait :: rest) (hb : s.regs.busy = true) (hp : s.pos = f :: fs) :
    step s = exec f.op s.elapse := by
  simp [step, move, hh, hb, seqMove, hp]

theorem step_of_wait_over (hh : s.host = .wait :: rest) (hb : s.regs.busy = false) :
    step s = .next { s with host := rest } := by
  simp [step, move, hh, hb]

theorem step_of_idle (hh : s.host = []) (hp : s.pos = []) : step s = .next s := by
  simp [step, move, hh, seqMove, hp]

/-- Settles O20, schedule by schedule. -/
theorem stepRunsTheInnermostProcedure : Obligations.StepRunsTheInnermostProcedure := by
  unfold Obligations.StepRunsTheInnermostProcedure
  exact ⟨fun s f fs hp => ⟨fun hh => step_of_running hh hp, fun rest hh => step_of_pass hh hp,
      fun rest hh hb => step_of_wait_busy hh hb hp⟩,
    fun s hp hh => step_of_idle hh hp, fun s rest hh hb => step_of_wait_over hh hb⟩

/-- A word that decodes is entered, and no host action comes first (log 21). -/
theorem State.withFetchWord_enter {nbits w : Nat} (h : decodeTableWord nbits w = some i) (s : State) :
    ∃ u : State, u.host = [] ∧ s.withFetchWord nbits w = u.enter i := by
  simp only [State.withFetchWord, fetchWord, h]
  cases tableSpace nbits <;> exact ⟨_, rfl, rfl⟩

/-- Settles O21: the sequencer stands at step 1 of the decoded operation, with nothing before it. -/
theorem placedWordRunsNext : Obligations.PlacedWordRunsNext := by
  unfold Obligations.PlacedWordRunsNext
  intro s nbits w i h
  obtain ⟨u, hu, he⟩ := State.withFetchWord_enter h s
  obtain ⟨a0, a1, a2, hf⟩ := firstFrame_start u i
  have hp : (u.enter i).pos = [Frame.start i a0 a1 a2] := by rw [State.enter_pos, hf]
  rw [he]
  exact ⟨step_of_running (s := u.enter i) hu hp, _, hp, rfl, rfl⟩

/-! ### The end of a procedure -/

/-- At the last step of a primitive or a transaction the procedure ends. -/
theorem exec_end (hp : s.pos = f :: fs)
    (hend : (f.op = .wren ∧ f.step = 3) ∨ ((f.op = .wrsr ∨ f.op = .pp ∨ f.op = .se) ∧ f.step = 4) ∨
      (f.op = .reset ∧ f.step = 3) ∨ (f.op.space = .wire ∧ f.step = 8)) : exec f.op s = .next s.finish := by
  rw [← State.stepNo_of_running hp] at hend
  obtain ⟨ho, hn⟩ | ⟨ho | ho | ho, hn⟩ | ⟨ho, hn⟩ | ⟨ho, hn⟩ := hend
  · simp [exec, ho, execWren, hn]
  · simp [exec, ho, execWrsr, hn]
  · simp [exec, ho, execPp, hn]
  · simp [exec, ho, execSe, hn]
  · simp [exec, ho, execReset, hn]
  · obtain ⟨div, out, tail, hx, -⟩ := exec_wire ho s
    simp [hx, txnStep, hn]

/-- Settles O22: the last step is `State.finish`, which returns or completes. -/
theorem proceduresReturnOrComplete : Obligations.ProceduresReturnOrComplete := by
  unfold Obligations.ProceduresReturnOrComplete
  intro s f fs hp hend
  rw [exec_end hp hend]
  constructor
  · rintro g gs rfl
    rw [State.finish_of_called hp]
  · rintro rfl
    rw [State.finish_of_command hp]
    rfl

end Sys2Proof.Machine
end

section
/-! The bus accesses behind the port actions (20_memory.md R45, R46). -/

namespace Sys2Proof.Machine

theorem toNat_append_zero_mod_four {n : Nat} (i : BitVec n) : (i ++ 0#2).toNat % 4 = 0 := by
  simp [BitVec.toNat_append, Nat.shiftLeft_eq]

theorem Config.ctrlAddr_aligned : Config.ctrlAddr.toNat % 4 = 0 := toNat_append_zero_mod_four _

theorem Config.clkCfgAddr_aligned : Config.clkCfgAddr.toNat % 4 = 0 := toNat_append_zero_mod_four _

/-- Settles O7, action by action: each is one access to one space, and the two that need alignment are at the addresses
of the parameters. -/
theorem portWidthsAreFixed : Obligations.PortWidthsAreFixed := by
  unfold Obligations.PortWidthsAreFixed
  intro e a h
  cases e with
  | delay => cases h
  | ctrlWrite => cases h; simp [Config.ctrlAddr_aligned]
  | clkCfgRead => cases h; simp [Config.clkCfgAddr_aligned]
  | dataWrite8 | dataRead8 | dataRead32 | winRead32 | winRead8 | bufRead8 | bufWrite8 => cases h; simp

end Sys2Proof.Machine
end

section
/-! The decoder and the encoder, each the other's inverse (30_encoding.md R62, R65 to R67, R70). -/

namespace Sys2Proof

variable {w : Word} {i : Instr} {bytes rest : List Byte}

/-! ### Command words -/

/-- A word decodes to the command whose code stands in its bits 7:0. -/
theorem decodeCommand_of_code (hs : i.space = .command) (hc : commandCode w = opcodeOf i) :
    decodeCommand w = some i := by
  cases i with
  | ident | wren | wrsr | pp | se | reset | erase | wbuf | rbuf => simp [decodeCommand, hc, opcodeOf]
  | rdid | spiWren | spoll | spiWrsr | spiPp | spiSe => cases hs

/-- A word decodes to nothing but the command of its code. -/
theorem commandCode_of_decode (h : decodeCommand w = some i) : commandCode w = opcodeOf i := by
  simp only [decodeCommand] at h
  repeat' split at h
  all_goals cases h
  all_goals assumption

theorem decodeCommand_eq_some_iff (hs : i.space = .command) :
    decodeCommand w = some i ↔ commandCode w = opcodeOf i :=
  ⟨commandCode_of_decode, decodeCommand_of_code hs⟩

/-- A word decodes to nothing exactly when its code is none of 1 to 9 (R66, R70): each of the 256 codes is compared. -/
theorem decodeCommand_eq_none_iff :
    decodeCommand w = none ↔ commandCode w = 0x00#8 ∨ 0x0A ≤ (commandCode w).toNat := by
  simp only [decodeCommand]
  generalize commandCode w = c
  revert c
  decide

/-- The first byte of a command word is its code (R65). -/
theorem commandCode_append (b3 b2 b1 b0 : Byte) : commandCode (b3 ++ b2 ++ b1 ++ b0) = b0 := by
  rw [commandCode, BitVec.extractLsb'_append_eq_right]

theorem commandCode_encodeCommand (i : Instr) : commandCode (encodeCommand i) = opcodeOf i := by
  simp [commandCode, encodeCommand, BitVec.extractLsb'_setWidth_of_le]

/-- A command word's other three bytes. -/
theorem operandBytes_command (hs : i.space = .command) : operandBytes i = [0x00, 0x00, 0x00] := by
  cases i with
  | ident | wren | wrsr | pp | se | reset | erase | wbuf | rbuf => rfl
  | rdid | spiWren | spoll | spiWrsr | spiPp | spiSe => cases hs

/-- The four bytes of a command word decode by the first; the others are ignored (R65). -/
theorem decode_command_of_code (hs : i.space = .command) (b1 b2 b3 : Byte) (rest : List Byte) :
    decode .command (opcodeOf i :: b1 :: b2 :: b3 :: rest) = some (i, rest) := by
  rw [decode, decodeCommand_of_code hs (commandCode_append ..), Option.map_some]

theorem decode_command_encode (hs : i.space = .command) (rest : List Byte) :
    decode .command (encode i ++ rest) = some (i, rest) := by
  rw [encode, operandBytes_command hs]
  exact decode_command_of_code hs 0x00 0x00 0x00 rest

/-! ### Transactions -/

/-- What a transaction's bytes decode to, whatever follows them. -/
theorem decodeWire_encode (hs : i.space = .wire) (rest : List Byte) :
    decodeWire (encode i ++ rest) = some (i, rest) := by
  cases i with
  | rdid | spiWren | spoll | spiWrsr | spiPp | spiSe => rfl
  | ident | wren | wrsr | pp | se | reset | erase | wbuf | rbuf => cases hs

/-- Bytes that decode begin with the encoding of what they decode to. -/
theorem eq_encode_of_decodeWire (h : decodeWire bytes = some (i, rest)) : bytes = encode i ++ rest := by
  unfold decodeWire at h
  repeat' split at h
  all_goals cases h
  all_goals subst_vars; rfl

theorem decode_wire_eq_some_iff (hs : i.space = .wire) :
    decode .wire bytes = some (i, rest) ↔ bytes = encode i ++ rest :=
  ⟨eq_encode_of_decodeWire, fun h => h ▸ decodeWire_encode hs rest⟩

/-! ### Both kinds -/

theorem decode_encode (i : Instr) (rest : List Byte) : decode i.space (encode i ++ rest) = some (i, rest) := by
  cases hs : i.space with
  | command => exact decode_command_encode hs rest
  | wire => exact decodeWire_encode hs rest

/-- Settles O1: for each kind, what decodes is the operation of its code or opcode, and an encoding decodes to its
operation. -/
theorem decodeAndEncodeAgree : Obligations.DecodeAndEncodeAgree := by
  unfold Obligations.DecodeAndEncodeAgree
  exact ⟨fun _ _ _ hs => decode_wire_eq_some_iff hs, fun _ _ hs => decodeCommand_eq_some_iff hs, decode_encode,
    fun i hs => decodeCommand_of_code hs (commandCode_encodeCommand i)⟩

/-- Settles O2: bits 7:0 are the command code. -/
theorem illegalCodesAreThoseOfTheRule : Obligations.IllegalCodesAreThoseOfTheRule :=
  fun _ => decodeCommand_eq_none_iff

/-- Settles O3: the decoder is run on each. -/
theorem writtenWordsDecode : Obligations.WrittenWordsDecode := by
  unfold Obligations.WrittenWordsDecode
  decide

end Sys2Proof
end

section
/-! The fields of a control word (30_encoding.md R61), the address bytes (R68), and a command word that is illegal
(R70). -/

namespace Sys2Proof.Machine

/-! ### The control word -/

/-- The three fields read back, and the other bits are 0 (40_control_word_and_transaction.md R80). -/
theorem controlWord_fields (d : DivCode) (cs : ChipSelect) (m : BusMode) :
    ctrlDiv (controlWord d cs m) = d ∧ ctrlSelect (controlWord d cs m) = cs ∧ ctrlMode (controlWord d cs m) = m ∧
    controlWord d cs m &&& 0xFFFFF8F8#32 = 0#32 := by
  revert d
  cases cs with
  | low | high =>
    cases m with
    | normalRead | fastRead | normalWrite | userMode => decide

/-- Settles O4: the fields by their lemma, the four examples of R80 by their values. -/
theorem controlWordFields : Obligations.ControlWordFields := by
  unfold Obligations.ControlWordFields
  intro d cs m
  obtain ⟨hdiv, hselect, hmode, hreserved⟩ := controlWord_fields d cs m
  exact ⟨hdiv, hselect, hmode, hreserved, by decide⟩

/-! ### Address bytes -/

/-- The three address bytes stand side by side in the offset (R68, 20_memory.md R42). -/
theorem wireOffset_addr (o : Word) : wireOffset (addrHigh o) (addrMid o) (addrLow o) = o.extractLsb' 0 24 := by
  have hhigh : addrHigh o ++ addrMid o = o.extractLsb' 8 (8 + 8) :=
    BitVec.extractLsb'_append_extractLsb'_eq_extractLsb' rfl
  rw [wireOffset, hhigh]
  exact BitVec.extractLsb'_append_extractLsb'_eq_extractLsb' rfl

/-- Settles O5: the encoder keeps the order of the operands, which is high byte first. -/
theorem addressBytesHighFirst : Obligations.AddressBytesHighFirst := by
  unfold Obligations.AddressBytesHighFirst
  exact fun o => ⟨rfl, rfl, wireOffset_addr o⟩

/-! ### An illegal command -/

/-- A write to `CMD` while not busy is the issue of its word (R65). -/
theorem step_of_write_cmd {s : State} {w : Word} {rest : List HostAction}
    (hh : s.host = .write (regOffset .cmd) w :: rest) (hb : s.regs.busy = false) :
    step s = .next (State.issue { s with host := rest } w) := by
  rw [step_of_write .cmd hh]
  simp [writeReg, hb]

/-- Settles O14: the write leads to `State.issue`, which completes at once because the code is illegal. -/
theorem illegalCommandCompletesWithThree : Obligations.IllegalCommandCompletesWithThree := by
  unfold Obligations.IllegalCommandCompletesWithThree
  intro s w rest hh hb hc
  have hstep := step_of_write_cmd hh hb
  rw [State.issue_illegal (decodeCommand_eq_none_iff.2 hc), commandCode_setWidth] at hstep
  exact ⟨_, hstep, rfl, rfl, rfl, rfl, rfl, rfl, rfl, rfl, rfl⟩

end Sys2Proof.Machine
end

section
/-! The accesses to the data window leave everything but the part, the draws, `w_b`, `w_word` and the trace
(20_memory.md R47). -/

namespace Sys2Proof.Machine

@[simp] theorem State.sent8_prot (s : State) (b : Byte) : (s.sent8 b).prot = s.prot := rfl
@[simp] theorem State.sent8_work (s : State) (b : Byte) : (s.sent8 b).work = s.work := rfl
@[simp] theorem State.sent8_clkCfg (s : State) (b : Byte) : (s.sent8 b).clkCfg = s.clkCfg := rfl
@[simp] theorem State.sent8_buf (s : State) (b : Byte) : (s.sent8 b).buf = s.buf := rfl
@[simp] theorem State.sent8_par (s : State) (b : Byte) : (s.sent8 b).par = s.par := rfl
@[simp] theorem State.sent8_host (s : State) (b : Byte) : (s.sent8 b).host = s.host := rfl
@[simp] theorem State.sent8_hostData (s : State) (b : Byte) : (s.sent8 b).hostData = s.hostData := rfl
@[simp] theorem State.sent8_trace (s : State) (b : Byte) :
    (s.sent8 b).trace = s.trace ++ [.dataWrite8 s.regs.bankBase b] := rfl
@[simp] theorem State.read8_prot (s : State) : s.read8.prot = s.prot := by simp [State.read8]
@[simp] theorem State.read8_work (s : State) : s.read8.work = { s.work with b := s.shiftedIn } := by simp [State.read8]
@[simp] theorem State.read8_clkCfg (s : State) : s.read8.clkCfg = s.clkCfg := by simp [State.read8]
@[simp] theorem State.read8_buf (s : State) : s.read8.buf = s.buf := by simp [State.read8]
@[simp] theorem State.read8_par (s : State) : s.read8.par = s.par := by simp [State.read8]
@[simp] theorem State.read8_host (s : State) : s.read8.host = s.host := by simp [State.read8]
@[simp] theorem State.read8_hostData (s : State) : s.read8.hostData = s.hostData := by simp [State.read8]
@[simp] theorem State.read8_trace (s : State) :
    s.read8.trace = s.trace ++ [.dataRead8 s.regs.bankBase s.shiftedIn] := by simp [State.read8]
@[simp] theorem State.read32_prot (s : State) : s.read32.prot = s.prot := by simp [State.read32]
@[simp] theorem State.read32_work (s : State) : s.read32.work = { s.work with word := s.shiftedInWord } := by
  simp [State.read32]
@[simp] theorem State.read32_clkCfg (s : State) : s.read32.clkCfg = s.clkCfg := by simp [State.read32]
@[simp] theorem State.read32_buf (s : State) : s.read32.buf = s.buf := by simp [State.read32]
@[simp] theorem State.read32_par (s : State) : s.read32.par = s.par := by simp [State.read32]
@[simp] theorem State.read32_host (s : State) : s.read32.host = s.host := by simp [State.read32]
@[simp] theorem State.read32_hostData (s : State) : s.read32.hostData = s.hostData := by simp [State.read32]
@[simp] theorem State.read32_trace (s : State) :
    s.read32.trace = s.trace ++ [.dataRead32 s.regs.bankBase s.shiftedInWord] := by simp [State.read32]

end Sys2Proof.Machine
end

section
/-! The discipline of the chip-select window (30_encoding.md R67, 40_control_word_and_transaction.md R86 to R88): what a
position asks of the next port action, and that every step keeps the whole trace under it. -/

namespace Sys2Proof.Machine

variable {s t u : State} {f : Frame} {fs : List Frame} {op : Instr} {e : PortAction} {a : HostAction}

/-! ### The host's queue -/

theorem PortStep.host (h : PortStep s t) : t.host = s.host := by
  cases h with
  | delay | clkCfgRead | bufRead8 | bufWrite8 => rfl
  | ctrlWrite | dataWrite8 | dataRead8 | dataRead32 | winRead32 | winRead8 => simp

/-- A step of a procedure leaves the host's queue. -/
theorem ProcStep.host (h : ProcStep s t) : t.host = s.host := by
  cases h with
  | internal h => exact h.host
  | action u v hu ha ht => rw [ht.host, ha.host, hu.host]

@[simp] theorem State.issue_host (s : State) (w : Word) : (s.issue w).host = s.host := by
  unfold State.issue; split <;> rfl

theorem HostCase.host (h : HostCase a s t) : t.host = s.host := by
  cases h with
  | issue w => simp
  | hwReset | registers | flags | read | store | clock | nothing => rfl

theorem noHwReset_cons {r : List HostAction} :
    noHwReset (a :: r) = true ↔ a ≠ .hwReset ∧ noHwReset r = true := by
  simp [noHwReset]

/-! ### What a position asks -/

/-- What step `n` of a transaction, at loop counter `k`, asks of the next port action (R81, R86). -/
def txnAsks (n k : Nat) : Discipline where
  low := (2 ≤ n ∧ n ≤ 6) ∨ n = 9 ∨ n = 10
  opcode := n = 2 ∨ (n = 3 ∧ k = 0)
  owed := if n = 2 ∨ n = 7 then 100 else if n = 4 ∨ n = 10 then 10 else 0

/-- Nothing is asked: the window is closed and no delay is owed. -/
def asksNothing : Discipline := ⟨false, false, 0⟩

theorem expected_wire (hp : s.pos = f :: fs) (hsp : f.op.space = .wire) : expected s = txnAsks f.step f.k := by
  simp [expected, hp, hsp, inWindow, txnAsks]

theorem expected_idle (hp : s.pos = []) : expected s = asksNothing := by simp [expected, hp, asksNothing]

/-- A host command's procedure owes a delay only between the two port actions of RESET. -/
theorem expected_command (hp : s.pos = f :: fs) (hsp : f.op.space = .command) (hr : f.op = .reset → f.step ≠ 2) :
    expected s = asksNothing := by
  simpa [expected, hp, hsp, inWindow_command hsp, asksNothing] using hr

/-- At its step 1 no procedure owes anything. -/
theorem expected_start (hp : s.pos = f :: fs) (hn : f.step = 1) : expected s = asksNothing := by
  simp [expected, hp, hn, inWindow, asksNothing]

theorem not_calls_of_reset {g : Frame} (h : g.op = .reset) : calls g op = false := by
  cases g; cases h; rfl

/-- A procedure that ends leaves nothing owed to its caller, since RESET calls nothing. -/
theorem expected_finish (hp : s.pos = f :: fs) (hs : stackOk s.pos = true) : expected s.finish = asksNothing := by
  cases fs with
  | nil => rw [State.finish_of_command hp]; exact expected_idle rfl
  | cons g gs =>
    simp only [hp, stackOk, Bool.and_eq_true] at hs
    obtain ⟨⟨-, hc⟩, -⟩ := hs
    rw [State.finish_of_called hp]
    refine expected_command rfl (calls_caller hc).1 fun hr => ?_
    simp [not_calls_of_reset (g := g) hr] at hc

theorem inWindow_eq_expected (s : State) : s.inWindow = (expected s).low := by
  cases hp : s.pos <;> simp [State.inWindow, expected, hp]

/-! ### One port action more -/

/-- What a port action makes of `CTRL` (R28). -/
def ctrlAfter (c : Word) : PortAction → Word
  | .ctrlWrite w => w
  | _ => c

/-- The window the discipline takes to be open stays the one `CTRL` opens (R29). -/
theorem disciplineStep_low {d d' : Discipline} {c : Word} (hl : windowOpen c = d.low)
    (h : disciplineStep d e = some d') : windowOpen (ctrlAfter c e) = d'.low := by
  cases e
  all_goals
    simp only [disciplineStep, Option.ite_none_right_eq_some, Option.some.injEq] at h
    obtain ⟨hif, rfl⟩ := h
    simp_all [ctrlAfter]

theorem discipline_snoc {d d' : Discipline} {es : List PortAction} (h : discipline d es = some d') (e : PortAction) :
    discipline d (es ++ [e]) = disciplineStep d' e := by
  induction es generalizing d with
  | nil =>
    cases h
    simp only [List.nil_append, discipline]
    split <;> simp_all
  | cons x xs ih =>
    simp only [discipline, List.cons_append] at h ⊢
    split at h
    · exact ih h
    · cases h

/-- A port action that is what the position asks, and after it the position asks what the action leaves. -/
theorem State.Disciplined.acted (hs : s.Disciplined) (htr : t.trace = s.trace ++ [e]) (hc : t.ctrl = ctrlAfter s.ctrl e)
    (hd : disciplineStep (expected s) e = some (expected t)) : t.Disciplined where
  window := by rw [hc, inWindow_eq_expected, disciplineStep_low (inWindow_eq_expected s ▸ hs.window) hd]
  trace := by rw [htr, discipline_snoc hs.trace, hd]

/-- An update that makes no port action and changes nothing of what is asked. -/
theorem State.Disciplined.updated (hs : s.Disciplined) (htr : t.trace = s.trace) (hc : t.ctrl = s.ctrl)
    (he : expected t = expected s) : t.Disciplined where
  window := by rw [hc, hs.window, inWindow_eq_expected, inWindow_eq_expected, he]
  trace := by rw [htr, hs.trace, he]

/-! ### The host commands' procedures -/

/-- A step of a host command's procedure other than RESET: it makes no port action, or one that is made outside every
window and owes nothing. -/
structure OutsideWindows (s t : State) : Prop where
  ctrl : t.ctrl = s.ctrl
  trace : t.trace = s.trace ∨ ∃ e, t.trace = s.trace ++ [e] ∧ disciplineStep asksNothing e = some asksNothing

theorem InternalUpdate.outsideWindows (h : InternalUpdate s t) : OutsideWindows s t := ⟨h.ctrl, .inl h.trace⟩

theorem execIdent_outsideWindows (h : execIdent s = .next t) : OutsideWindows s t := by
  unfold execIdent at h
  split at h
  case h_7 => cases h; exact ⟨by simp, .inr ⟨_, (State.goto_trace ..).trans (State.clkCfgRead_trace ..), rfl⟩⟩
  all_goals
    refine InternalUpdate.outsideWindows ?_
    repeat' split at h
    all_goals cases h
    all_goals constructor <;> simp

theorem execRbuf_outsideWindows (h : execRbuf s = .next t) : OutsideWindows s t := by
  unfold execRbuf at h
  split at h
  case h_3 => cases h; exact ⟨by simp, .inr ⟨_, (State.goto_trace ..).trans (State.winRead32_trace ..), rfl⟩⟩
  case h_10 => cases h; exact ⟨by simp, .inr ⟨_, (State.goto_trace ..).trans (State.winRead8_trace ..), rfl⟩⟩
  case h_4 | h_5 | h_6 | h_7 | h_11 =>
    cases h; exact ⟨by simp, .inr ⟨_, (State.goto_trace ..).trans (State.bufWrite8_trace ..), rfl⟩⟩
  all_goals
    refine InternalUpdate.outsideWindows ?_
    repeat' split at h
    all_goals cases h
    all_goals constructor <;> simp

theorem exec_outsideWindows (hsp : op.space = .command) (hr : op ≠ .reset) (h : exec op s = .next t) :
    OutsideWindows s t := by
  cases op with
  | ident => exact execIdent_outsideWindows h
  | wren => exact (execWren_internal h).outsideWindows
  | wrsr => exact (execWrsr_internal h).outsideWindows
  | pp => exact (execPp_internal h).outsideWindows
  | se => exact (execSe_internal h).outsideWindows
  | erase => exact (execErase_internal h).outsideWindows
  | wbuf => exact (execWbuf_internal h).outsideWindows
  | rbuf => exact execRbuf_outsideWindows h
  | reset => exact absurd rfl hr
  | rdid | spiWren | spoll | spiWrsr | spiPp | spiSe => cases hsp

/-- Such a procedure goes to a step, calls, returns or completes, and nothing is asked there. -/
theorem CommandMove.expected_eq (h : CommandMove f.op s t) (hp : s.pos = f :: fs) (hs : stackOk s.pos = true)
    (hsp : f.op.space = .command) (hr : f.op ≠ .reset) : expected t = asksNothing := by
  cases h with
  | goto n hu => exact expected_command (State.goto_pos (hu.pos.trans hp) n) hsp fun ho => absurd ho hr
  | call => exact expected_start (State.call_pos ..) rfl
  | finish => exact expected_finish hp hs
  | complete => exact expected_idle rfl

/-- RESET writes the default mode and settles (R124). -/
theorem execReset_disciplined (hd : s.Disciplined) (hp : s.pos = f :: fs) (hs : stackOk s.pos = true)
    (ho : f.op = .reset) (h : execReset s = .next t) : t.Disciplined := by
  have hn : s.stepNo = f.step := State.stepNo_of_running hp
  unfold execReset at h
  split at h <;> cases h
  case h_1 h1 =>
    refine hd.acted (e := .ctrlWrite (controlWord s.desc.rdiv .high .fastRead)) (by simp) (by simp [ctrlAfter]) ?_
    rw [expected_start hp (hn ▸ h1)]
    simp [disciplineStep, asksNothing, expected, State.goto_pos (s := s.ctrlWrite _) (by simpa using hp), ho,
      Instr.space, inWindow]
  case h_2 h2 =>
    refine hd.acted (e := .delay 100) (by simp [Config.tCtrl]) (by simp [ctrlAfter]) ?_
    rw [expected_command (State.goto_pos (s := s.delay _) hp 3) (by simp [ho, Instr.space]) (by simp)]
    simp [disciplineStep, asksNothing, expected, hp, ho, ← hn, h2, Instr.space, inWindow]
  case h_3 h3 =>
    refine hd.updated (by simp) (by simp) ?_
    rw [expected_finish hp hs, expected_command hp (by simp [ho, Instr.space]) (by omega)]

theorem exec_command_disciplined (hd : s.Disciplined) (hp : s.pos = f :: fs) (hs : stackOk s.pos = true)
    (hsp : f.op.space = .command) (h : exec f.op s = .next t) : t.Disciplined := by
  by_cases hr : f.op = .reset
  · rw [hr] at h
    exact execReset_disciplined hd hp hs hr h
  · have hes : expected s = asksNothing := expected_command hp hsp fun ho => absurd ho hr
    have het : expected t = asksNothing := (exec_move hsp h).expected_eq hp hs hsp hr
    obtain ⟨hc, htr | ⟨e, htr, he⟩⟩ := exec_outsideWindows hsp hr h
    · exact hd.updated htr hc (het.trans hes.symm)
    · refine hd.acted htr ?_ (by rw [hes, het, he])
      cases e with
      | ctrlWrite w => simp [disciplineStep, asksNothing] at he
      | _ => exact hc

/-! ### The transactions -/

/-- A transaction makes a port action and goes to another of its steps. -/
theorem State.Disciplined.txnActed (hd : s.Disciplined) (hp : s.pos = f :: fs) (hsp : f.op.space = .wire)
    (hpu : u.pos = s.pos) (htr : u.trace = s.trace ++ [e]) (hc : u.ctrl = ctrlAfter s.ctrl e) {n k : Nat}
    (ha : disciplineStep (txnAsks f.step f.k) e = some (txnAsks n k)) : (u.gotoWith k n).Disciplined := by
  refine hd.acted (by simpa using htr) (by simpa using hc) ?_
  rw [expected_wire hp hsp, ha, expected_wire (State.gotoWith_pos (hpu.trans hp) k n) hsp]

/-- The same where the loop counter stays. -/
theorem State.Disciplined.txnWent (hd : s.Disciplined) (hp : s.pos = f :: fs) (hsp : f.op.space = .wire)
    (hpu : u.pos = s.pos) (htr : u.trace = s.trace ++ [e]) (hc : u.ctrl = ctrlAfter s.ctrl e) {n : Nat}
    (ha : disciplineStep (txnAsks f.step f.k) e = some (txnAsks n f.k)) : (u.goto n).Disciplined :=
  State.goto_eq_gotoWith (hpu.trans hp) n ▸ hd.txnActed hp hsp hpu htr hc ha

/-- The tail reads and fetches inside the window, after the opcode, and owes nothing (R83, R84, R122 step G9). -/
theorem TailCase.disciplined {tail : Tail} (h : TailCase tail s t) (hd : s.Disciplined) (hp : s.pos = f :: fs)
    (hsp : f.op.space = .wire) (hn : f.step = 5) : t.Disciplined := by
  cases h with
  | none | dataEnd =>
    refine hd.updated (by simp) (by simp) ?_
    rw [expected_wire hp hsp, expected_wire (State.goto_pos hp 6) hsp, hn]
    rfl
  | pollMet =>
    exact hd.txnWent hp hsp (by simp) (State.read8_trace s) (by simp [ctrlAfter]) (by rw [hn]; rfl)
  | pollAgain =>
    refine hd.acted (State.read8_trace s) (by simp [ctrlAfter]) ?_
    rw [expected_wire hp hsp, expected_wire ((State.read8_pos s).trans hp) hsp, hn]
    rfl
  | read24 =>
    exact hd.txnWent hp hsp (by simp) (State.read32_trace s) (by simp [ctrlAfter]) (by rw [hn]; rfl)
  | dataFetch =>
    exact hd.txnWent hp hsp (by simp) (State.bufRead8_trace s _) (by simp [ctrlAfter]) (by rw [hn]; rfl)

/-- T1 opens the window with the opcode to come, T3 sends it first, T5 closes the window, and each control write and
each byte sent is followed by its delay (R81). -/
theorem TxnCase.disciplined {div : DivCode} {out : List Byte} {tail : Tail} (h : TxnCase div out tail s t)
    (hd : s.Disciplined) (hp : s.pos = f :: fs) (hs : stackOk s.pos = true) (hsp : f.op.space = .wire)
    (hop : isOpcode (out.getD 0 0) = true) : t.Disciplined := by
  have hn : s.stepNo = f.step := State.stepNo_of_running hp
  have hfr : s.frame = f := State.frame_of_running hp
  cases h with
  | t1 h1 =>
    refine hd.txnWent hp hsp (by simp) (State.ctrlWrite_trace { s with work.div := div } _) rfl ?_
    rw [← hn, h1]
    simp [disciplineStep, txnAsks]
  | t2 hstep | t3bMore hstep | t3bLast hstep | g9Settle hstep =>
    exact hd.txnActed hp hsp (by rfl) (State.delay_trace s _) rfl (by rw [← hn, hstep]; rfl)
  | t3a h3 =>
    refine hd.txnWent hp hsp (by simp) (State.sent8_trace s _) rfl ?_
    rw [← hn, h3, hfr]
    have hopcode : f.k = 0 → isOpcode (out.getD f.k 0) = true := fun hk => hk ▸ hop
    simpa [disciplineStep, txnAsks] using hopcode
  | t4 h5 ht => exact ht.disciplined hd hp hsp (hn ▸ h5)
  | t5 h6 =>
    refine hd.txnWent hp hsp (by simp) (State.ctrlWrite_trace s _) rfl ?_
    rw [← hn, h6]
    simp [disciplineStep, txnAsks]
  | t6 h7 =>
    exact hd.txnWent hp hsp (by rfl) (State.delay_trace s _) rfl (by rw [← hn, h7]; rfl)
  | done h8 =>
    refine hd.updated (by simp) (by simp) ?_
    rw [expected_finish hp hs, expected_wire hp hsp, ← hn, h8]
    rfl
  | g9Send h9 =>
    exact hd.txnWent hp hsp (by simp) (State.sent8_trace s _) rfl (by rw [← hn, h9]; rfl)

/-- Every transaction sends one of the six opcodes first (30_encoding.md R67). -/
theorem exec_wire_opcode (hsp : op.space = .wire) (s : State) :
    ∃ div out tail, exec op s = txnStep div out tail s ∧ isOpcode (out.getD 0 0) = true := by
  cases op with
  | rdid | spiWren | spoll | spiWrsr | spiPp | spiSe => exact ⟨_, _, _, rfl, rfl⟩
  | ident | wren | wrsr | pp | se | reset | erase | wbuf | rbuf => cases hsp

/-! ### Every step -/

theorem exec_disciplined (hd : s.Disciplined) (hp : s.pos = f :: fs) (hs : stackOk s.pos = true)
    (h : exec f.op s = .next t) : t.Disciplined := by
  cases hsp : f.op.space with
  | command => exact exec_command_disciplined hd hp hs hsp h
  | wire =>
    obtain ⟨div, out, tail, hx, hop⟩ := exec_wire_opcode hsp s
    exact (txnStep_eq_next (hx ▸ h)).disciplined hd hp hs hsp hop

/-- A command is issued only while idle, and at its step 1 nothing is owed. -/
theorem State.issue_expected (hp : s.pos = []) (w : Word) : expected (s.issue w) = expected s := by
  rw [expected_idle hp]
  cases hw : decodeCommand w with
  | some i =>
    obtain ⟨a0, a1, a2, hf⟩ := firstFrame_start { s with regs.cmd := (commandCode w).setWidth 32 } i
    rw [State.issue_legal hw]
    exact expected_start (by rw [State.enter_pos, hf]) rfl
  | none =>
    rw [State.issue_illegal hw]
    exact expected_idle rfl

/-- The host makes no port action, and of its actions only the reset input leaves the position it finds. -/
theorem HostCase.disciplined (h : HostCase a s t) (ha : a ≠ .hwReset) (hi : s.Inv) (hd : s.Disciplined) :
    t.Disciplined := by
  cases h with
  | hwReset hr => exact absurd hr ha
  | issue w hb =>
    have hidle : s.pos = [] := by simpa [hb] using hi.busy
    exact hd.updated (State.issue_trace s w) (by simp) (State.issue_expected hidle w)
  | registers | flags | read | store | clock | nothing => exact hd.updated rfl rfl rfl

/-- Settles O59, agent by agent: the sequencer's step is what the position asks, and the host makes no port action. -/
theorem stepKeepsTheWindowDiscipline : Obligations.StepKeepsTheWindowDiscipline := by
  unfold Obligations.StepKeepsTheWindowDiscipline
  intro s t hi hq hd h
  have of_host (r : List HostAction) : ({ s with host := r } : State).Disciplined := hd.updated rfl rfl rfl
  have queue {a r} (hh : s.host = a :: r) : a ≠ .hwReset ∧ noHwReset r = true := noHwReset_cons.1 (hh ▸ hq)
  cases step_cases h with
  | idle _ ht =>
    obtain rfl | ⟨a, r, hh, rfl⟩ := ht
    · exact ⟨hq, hd⟩
    · exact ⟨(queue hh).2, of_host r⟩
  | waited _ r hh ht => exact ht ▸ ⟨(queue hh).2, of_host r⟩
  | sequencer f fs r hp hr ht =>
    have hqr : noHwReset r = true := by
      obtain rfl | ⟨a, hh⟩ := hr
      · exact hq
      · exact (queue hh).2
    have hdr : ({ s with host := r, timer := 0, progress := false } : State).Disciplined := hd.updated rfl rfl rfl
    exact ⟨by rw [(exec_procStep ht).host]; exact hqr, exec_disciplined hdr hp hi.stack ht⟩
  | host a r hh ht =>
    obtain ⟨ha, hqr⟩ := queue hh
    have hc := hostStep_cases ht
    exact ⟨by rw [hc.host]; exact hqr, hc.disciplined ha { hi with } (of_host r)⟩

end Sys2Proof.Machine
end

section
/-! What a transaction leaves unchanged (40_control_word_and_transaction.md R81 to R85, 41_identification.md R100,
42_primitives.md R122). -/

namespace Sys2Proof.Machine

variable {s t : State}

/-- What every step of a transaction leaves of the state, and how it may leave the status. -/
structure TxnFrame (s t : State) : Prop where
  status : StatusFrame s t
  desc : t.desc = s.desc
  prot : t.prot = s.prot
  clkCfg : t.clkCfg = s.clkCfg
  par : t.par = s.par
  host : t.host = s.host
  hostData : t.hostData = s.hostData
  progress : t.progress = s.progress
  work : t.work = { s.work with b := t.work.b, word := t.work.word, div := t.work.div }
  buf : t.buf = s.buf

/-- The end of a procedure leaves the status or completes with code 0 (R126). -/
theorem State.finish_status (s : State) : StatusFrame s s.finish := by
  unfold State.finish
  split
  · exact .inl rfl
  · exact .inr rfl

theorem TxnFrame.finish (s : State) : TxnFrame s s.finish := by
  constructor
  case status => exact s.finish_status
  all_goals simp

/-- The tail changes `w_b` or `w_word` at most. -/
theorem TailCase.frame {tail : Tail} (h : TailCase tail s t) : TxnFrame s t := by
  cases h with
  | none | dataEnd | pollMet | pollAgain | read24 | dataFetch =>
    constructor <;> simp [StatusFrame]

/-- Step T1 sets `w_div`, and only the end of the transaction reaches the status. -/
theorem TxnCase.frame {div : DivCode} {out : List Byte} {tail : Tail} (h : TxnCase div out tail s t) :
    TxnFrame s t := by
  cases h with
  | t4 _ ht => exact ht.frame
  | done => exact .finish s
  | t1 | t2 | t3a | t3bMore | t3bLast | t5 | t6 | g9Send | g9Settle =>
    constructor <;> simp [StatusFrame]

/-- Settles O44, by what one step of a transaction can do. -/
theorem transactionFrame : Obligations.TransactionFrame := by
  unfold Obligations.TransactionFrame
  intro i s t hsp h
  obtain ⟨div, out, tail, hx, -⟩ := exec_wire hsp s
  obtain ⟨hstatus, hdesc, hprot, hclk, hpar, hhost, hdata, hprogress, hwork, hbuf⟩ := (txnStep_eq_next (hx ▸ h)).frame
  exact ⟨hstatus, hdesc, hprot, hclk, hpar, hhost, hdata, hprogress, hwork, fun a => by rw [hbuf]⟩

end Sys2Proof.Machine
end

section
/-! A transaction from its step 1 to its end, its first step made by `exec` itself (40_control_word_and_transaction.md
R81, R82, R85). -/

namespace Sys2Proof.Machine

variable {op : Instr} {a0 a1 a2 : Word} {d : Descriptor} {div : DivCode} {out : List Byte} {tail : Tail}
  {s t u : State} {f g : Frame} {fs gs : List Frame} {k : Nat}

/-- `step` lets the time of the last delay pass before it runs `exec`. Where the first step makes no difference of that,
a run of `step` goes on from what `exec` itself answers. -/
theorem Runs.after_exec (hh : s.host = []) (hp : s.pos = f :: fs) (he : exec f.op s.elapse = .next u.elapse)
    (huh : u.host = []) (hup : u.pos = g :: gs) (hr : Runs (k + 2) s t) : Runs (k + 1) u t := by
  obtain ⟨v, hv, hrv⟩ := Runs.succ_iff.1 hr
  obtain ⟨w, hw, hrw⟩ := Runs.succ_iff.1 hrv
  rw [step_of_running hh hp, he] at hv
  cases hv
  rw [step_of_running (s := u.elapse) huh hup] at hw
  exact Runs.step_running huh hup hw hrw

/-- The state after step T1. -/
def State.openedBy (s : State) (div : DivCode) : State :=
  ({ s with work.div := div }.ctrlWrite (controlWord div .low .userMode)).goto 2

theorem IsTxn.t1 (hx : IsTxn op a0 a1 a2 d div out tail) (hp : s.pos = Frame.start op a0 a1 a2 :: fs)
    (hd : s.desc = d) : exec op s = .next (s.openedBy div) := by
  rw [hx s fs 1 0 hp hd]
  simp [txnStep, State.stepNo_of_running hp, Frame.start, State.openedBy]

theorem State.goto_elapse (s : State) (n : Nat) : s.elapse.goto n = (s.goto n).elapse := by
  simp only [State.goto, State.setFrame, State.elapse_pos]
  split <;> rfl

theorem State.ctrlWrite_elapse (ho : s.part = none) (w : Word) : s.elapse.ctrlWrite w = (s.ctrlWrite w).elapse := by
  rw [State.ctrlWrite_oracle ho, State.ctrlWrite_oracle (s := s.elapse) ho]
  rfl

/-- Step T1 does not see whether the time of the last delay has passed. -/
theorem State.openedBy_elapse (ho : s.part = none) (div : DivCode) :
    s.elapse.openedBy div = (s.openedBy div).elapse := by
  rw [State.openedBy, State.openedBy, ← State.goto_elapse, ← State.ctrlWrite_elapse (by exact ho)]
  rfl

/-- A transaction whose tail runs finishes, with the trace of R81, its first step being `exec`'s. -/
theorem IsTxn.exec_run (hx : IsTxn op a0 a1 a2 d div out tail) (hne : out ≠ []) (hu : Undisturbed s)
    (hp : s.pos = Frame.start op a0 a1 a2 :: fs) (hd : s.desc = d) {acts : List PortAction} {n : Nat}
    {P : WorkRegs → Prop}
    (htail : ∀ u : State, u.pos = ⟨op, 5, a0, a1, a2, 0⟩ :: fs → u.host = [] → u.part = none → u.desc = d →
      windowOpen u.ctrl = true → u.answers = s.answers → u.buf = s.buf → u.regs = s.regs →
      ∃ m v j, Runs m u v ∧ TailRun u v acts n (⟨op, 6, a0, a1, a2, j⟩ :: fs) ∧ P v.work) :
    ∃ u k t, exec op s = .next u ∧ Runs k u t ∧ P t.work ∧
      Finished s t (txnTrace s.regs.bankBase div out acts) (controlWord div .high .userMode) n := by
  obtain ⟨hh, ho⟩ := hu
  obtain ⟨m, t, hr, hP, hfin⟩ := hx.run hne hh ho hp hd htail
  have he : exec op s.elapse = .next (s.openedBy div).elapse := by
    rw [hx.t1 (s := s.elapse) hp hd, State.openedBy_elapse ho]
  exact ⟨_, m + 1, t, hx.t1 hp hd,
    Runs.after_exec hh hp he (by simpa [State.openedBy] using hh)
      (State.goto_pos (f := Frame.start op a0 a1 a2) (by simpa using hp) 2) hr, hP, hfin⟩

/-- The same where the tail is nothing (R82). -/
theorem IsTxn.exec_run_sendOnly (hx : IsTxn op a0 a1 a2 d div out .none) (hne : out ≠ []) (hu : Undisturbed s)
    (hc : CalledWith s op a0 a1 a2) (hd : s.desc = d) :
    ∃ u k t, exec op s = .next u ∧ Runs k u t ∧
      Finished s t (txnTrace s.regs.bankBase div out []) (controlWord div .high .userMode) 0 := by
  obtain ⟨fs, hp⟩ := hc
  obtain ⟨u, k, t, he, hr, -, hfin⟩ := hx.exec_run hne hu hp hd (P := fun _ => True)
    fun v hvp hvh _ hvd _ _ _ _ => by
      obtain ⟨w, hw, hT⟩ := hx.tailNone hvp hvh hvd
      exact ⟨1, w, 0, hw, hT, trivial⟩
  exact ⟨u, k, t, he, hr, hfin⟩

/-- Settles O26, each as a transaction without a tail. -/
theorem sendOnlyTransactionsRun : Obligations.SendOnlyTransactionsRun := by
  unfold Obligations.SendOnlyTransactionsRun
  intro s a0 a1 a2 hu
  exact ⟨fun hc => (isTxn_spiWren a0 a1 a2 s.desc).exec_run_sendOnly (by simp) hu hc rfl,
    fun v hc => (isTxn_spiWrsr v a0 a1 a2 s.desc).exec_run_sendOnly (by simp) hu hc rfl,
    fun b2 b1 b0 hc => (isTxn_spiSe b2 b1 b0 a0 a1 a2 s.desc).exec_run_sendOnly (by simp) hu hc rfl⟩

/-- The arguments of a poll's frame read back (R66, R85). -/
theorem isTxn_spoll_called (mask want : Byte) (div : DivCode) (d : Descriptor) :
    IsTxn .spoll (mask.setWidth 32) (want.setWidth 32) (div.setWidth 32) d div [0x05] (.poll mask want) := by
  simpa using isTxn_spoll (mask.setWidth 32) (want.setWidth 32) (div.setWidth 32) d

/-- Settles O24: the tail reads the answers one by one, and the last one ends it. -/
theorem statusPollRuns : Obligations.StatusPollRuns := by
  unfold Obligations.StatusPollRuns
  rintro s mask want div ws rest hu ⟨fs, hp⟩ ha ⟨bad, good, rfl, hbad, hgood⟩
  have hx := isTxn_spoll_called mask want div s.desc
  obtain ⟨u, k, t, he, hr, -, hfin⟩ := hx.exec_run (by simp) hu hp rfl (P := fun _ => True)
    (acts := pollTrace s.regs.bankBase (bad ++ [good])) (n := (bad ++ [good]).length)
    fun v hvp hvh hvo hvd hvw hva _ hvr => by
      obtain ⟨m, w, hw, hT⟩ := hx.tailPoll hgood (rest := rest) bad hvp hvh hvd hvo hvw (by simp [hva, ha]) hbad
      exact ⟨m, w, 0, hw, hvr ▸ hT, trivial⟩
  exact ⟨u, k, t, he, hr, hfin⟩

end Sys2Proof.Machine
end

section
/-! The calibration search (41_identification.md R105 to R107), and what IDENT's own steps leave unchanged (R111). -/

namespace Sys2Proof.Machine

variable {s t : State} {freq ceiling : Nat}

/-! ### The search of the divisor codes -/

/-- `DIV(code)` on numbers (00_scope.md R4); the search counts its codes so. -/
def codeDivisor (code : Nat) : Nat := 2 + 2 * (7 - code)

theorem divisor_eq_codeDivisor (c : DivCode) : divisor c = codeDivisor c.toNat := rfl

/-- One code down is two more on the divisor. -/
theorem codeDivisor_pred {code : Nat} (h : code + 1 ≤ 7) : codeDivisor (code + 1) + 2 = codeDivisor code := by
  unfold codeDivisor
  omega

/-- What the search of R106 returns, started at `code`: the largest code up to it that meets the ceiling, or code 0 with
the saturation bit where none does (R107). -/
structure SearchResult (freq ceiling code : Nat) (r : Nat × Bool) : Prop where
  le : r.1 ≤ code
  meets : r.2 = false → freq / codeDivisor r.1 ≤ ceiling
  largest : r.2 = false → ∀ c ≤ code, freq / codeDivisor c ≤ ceiling → c ≤ r.1
  zero : r.2 = true → r.1 = 0
  exceeds : r.2 = true → ∀ c ≤ code, ceiling < freq / codeDivisor c

/-- A code that exceeds the ceiling is passed over. -/
theorem SearchResult.skip {code : Nat} {r : Nat × Bool} (h : SearchResult freq ceiling code r)
    (hx : ceiling < freq / codeDivisor (code + 1)) : SearchResult freq ceiling (code + 1) r where
  le := by have := h.le; omega
  meets := h.meets
  zero := h.zero
  largest hr c hc hm := by
    obtain hlt | rfl := Nat.lt_or_eq_of_le hc
    · exact h.largest hr c (by omega) hm
    · omega
  exceeds hr c hc := by
    obtain hlt | rfl := Nat.lt_or_eq_of_le hc
    · exact h.exceeds hr c (by omega)
    · exact hx

theorem calSearch_result (freq ceiling : Nat) {code : Nat} (hcode : code ≤ 7) :
    SearchResult freq ceiling code (calSearch freq ceiling code (codeDivisor code)) := by
  induction code with
  | zero => constructor <;> simp [calSearch]
  | succ code ih =>
    rw [calSearch, codeDivisor_pred hcode]
    split
    · next hx => exact (ih (by omega)).skip hx
    · next hx => constructor <;> simp_all

/-- The code of `Cal` is the search's: it fits in its three bits. -/
theorem calibrate_toNat (freq ceiling : Nat) :
    (calibrate freq ceiling).1.toNat = (calSearch freq ceiling 7 (codeDivisor 7)).1 := by
  have hle := (calSearch_result freq ceiling (code := 7) (by omega)).le
  rw [calibrate, BitVec.toNat_ofNat]
  exact Nat.mod_eq_of_lt (Nat.lt_succ_of_le hle)

/-- Settles O9: the search starts at code 7, the largest. -/
theorem calibrationFindsTheFastestAllowedClock : Obligations.CalibrationFindsTheFastestAllowedClock := by
  unfold Obligations.CalibrationFindsTheFastestAllowedClock
  intro freq ceiling
  obtain ⟨-, hmeets, hlargest, hzero, hexceeds⟩ := calSearch_result freq ceiling (code := 7) (by omega)
  have hcode : ∀ c : DivCode, c.toNat ≤ 7 := fun c => by omega
  simp only [divisor_eq_codeDivisor, calibrate_toNat]
  refine ⟨fun hs => ⟨hmeets hs, fun c => hlargest hs c.toNat (hcode c)⟩,
    fun hs => ⟨BitVec.eq_of_toNat_eq ?_, fun c => hexceeds hs c.toNat (hcode c)⟩⟩
  exact (calibrate_toNat freq ceiling).trans (hzero hs)

/-! ### One step of IDENT -/

/-- What one step of IDENT can do (R111): go on after an update of the descriptor and the flags, read the clock register,
call a procedure, or complete with code 0. -/
inductive IdentCase (s : State) : State → Prop where
  | update (d : Descriptor) (p : List Bool) (n : Nat) (hp : p.length = s.prot.length) :
      IdentCase s ({ s with desc := d, prot := p }.goto n)
  | readClock : IdentCase s (s.clkCfgRead.goto 8)
  | call (op : Instr) : IdentCase s (s.call op 0 0 0)
  | complete (d : Descriptor) : IdentCase s ({ s with desc := d }.complete 0)

theorem execIdent_eq_next (h : execIdent s = .next t) : IdentCase s t := by
  unfold execIdent at h
  split at h
  case h_1 | h_9 | h_10 => cases h; exact .call _
  case h_2 | h_3 => cases h; exact .update _ s.prot _ rfl
  case h_4 => cases h; exact .update s.desc _ 5 (by simp)
  case h_5 | h_6 | h_8 => split at h <;> cases h <;> exact .update _ s.prot _ rfl
  case h_7 => cases h; exact .readClock
  case h_11 => cases h; exact .complete _
  case h_12 => cases h

/-- Settles O47, by what one step of IDENT can do. -/
theorem identifyFrame : Obligations.IdentifyFrame := by
  unfold Obligations.IdentifyFrame
  intro s t h
  cases execIdent_eq_next h with
  | update d p n hp => simp [StatusFrame, hp]
  | readClock | call | complete => simp [StatusFrame]

end Sys2Proof.Machine
end

section
/-! Runs of the procedures that call others (10_state.md R25, 42_primitives.md R120, R121, R124): a stretch of a run ends
where a called procedure has returned, stretches compose, and the caller's last step ends it. -/

namespace Sys2Proof.Machine

variable {s t u v : State} {f g : Frame} {fs gs : List Frame} {op : Instr} {a0 a1 a2 c c' : Word} {k m n : Nat}
  {acts acts' : List PortAction} {p q : List Frame} {wel wip rest : List Word}

/-! ### Stretches of a run -/

/-- A stretch of a run of a procedure: the port actions `acts` were made, `n` answers drawn, the control register holds
`c`, and the position is `p`. -/
structure Stretch (s t : State) (acts : List PortAction) (c : Word) (n : Nat) (p : List Frame) : Prop where
  pos : t.pos = p
  trace : t.trace = s.trace ++ acts
  ctrl : t.ctrl = c
  answers : t.answers = s.answers.drop n
  draws : t.draws = s.draws + n
  kept : Kept s t

theorem Stretch.trans (h : Stretch s t acts c n p) (h' : Stretch t u acts' c' m q) :
    Stretch s u (acts ++ acts') c' (n + m) q where
  pos := h'.pos
  trace := by rw [h'.trace, h.trace, List.append_assoc]
  ctrl := h'.ctrl
  answers := by rw [h'.answers, h.answers, List.drop_drop]
  draws := by rw [h'.draws, h.draws, Nat.add_assoc]
  kept := h.kept.trans h'.kept

/-- The time of the last delay passes. -/
theorem Stretch.elapse (s : State) : Stretch s s.elapse [] s.ctrl 0 s.pos := by
  constructor
  case kept => constructor <;> rfl
  all_goals simp

theorem Stretch.call (s : State) (op : Instr) (a0 a1 a2 : Word) :
    Stretch s (s.call op a0 a1 a2) [] s.ctrl 0 (Frame.start op a0 a1 a2 :: s.pos) := by
  constructor
  case kept => constructor <;> rfl
  all_goals simp

theorem Stretch.undisturbed (h : Stretch s t acts c n p) (hu : Undisturbed s) : Undisturbed t :=
  ⟨h.kept.host.trans hu.1, h.kept.part.trans hu.2⟩

/-- A called procedure that has run to its end has returned to the step after its call. -/
theorem Finished.stretch (h : Finished s t acts c n) (hp : s.pos = f :: g :: gs) :
    Stretch s t acts c n ({ g with step := g.step + 1 } :: gs) := by
  obtain ⟨htrace, hpos, hregs, hwork, hctrl, hanswers, hdraws, hdesc, hprot, hbuf, hclk, hpart, hpar, hhost, hdata⟩ := h
  rw [State.finish_of_called hp] at hpos hregs
  exact ⟨hpos, htrace, hctrl, hanswers, hdraws,
    ⟨hregs, hdesc, hprot, hbuf, hclk, hpart, hpar, hhost, hdata, hwork⟩⟩

/-- A call has been made: the called procedure runs from there to its end. -/
theorem Stretch.of_call (hh : s.host = []) (hp : s.pos = g :: gs)
    (he : exec op (s.elapse.call op a0 a1 a2) = .next u) (hr : Runs k u t)
    (hfin : Finished (s.elapse.call op a0 a1 a2) t acts c n) :
    Runs (k + 1) (s.call op a0 a1 a2) t ∧ Stretch s t acts c n ({ g with step := g.step + 1 } :: gs) := by
  refine ⟨Runs.step_running (f := Frame.start op a0 a1 a2) hh rfl he hr, ?_⟩
  have hpos : (s.elapse.call op a0 a1 a2).pos = Frame.start op a0 a1 a2 :: g :: gs := by simp [hp]
  simpa using ((Stretch.elapse s).trans (Stretch.call s.elapse op a0 a1 a2)).trans (hfin.stretch hpos)

/-- The step that makes the call, and the called procedure's run to its end. -/
theorem Stretch.of_step_call (hh : s.host = []) (hp : s.pos = g :: gs)
    (hc : exec g.op s.elapse = .next (s.elapse.call op a0 a1 a2))
    (he : exec op (s.elapse.call op a0 a1 a2) = .next u) (hr : Runs k u t)
    (hfin : Finished (s.elapse.call op a0 a1 a2) t acts c n) :
    Runs (k + 2) s t ∧ Stretch s t acts c n ({ g with step := g.step + 1 } :: gs) := by
  obtain ⟨hrun, hst⟩ := Stretch.of_call (s := s.elapse) hh hp he hr hfin
  exact ⟨Runs.step_running hh hp hc hrun, by simpa using (Stretch.elapse s).trans hst⟩

/-- The last step of a procedure: it has run to its end. -/
theorem Stretch.finish (h : Stretch s v acts c n (g :: fs)) (hh : s.host = []) (hp : s.pos = f :: fs)
    (hr : Runs k u v) (he : exec g.op v.elapse = .next v.elapse.finish) :
    Runs (k + 1) u v.elapse.finish ∧ Finished s v.elapse.finish acts c n := by
  obtain ⟨hpos, htrace, hctrl, hanswers, hdraws, hregs, hdesc, hprot, hbuf, hclk, hpart, hpar, hhost, hdata, hwork⟩ := h
  refine ⟨hr.trans (Runs.one ((step_of_running (hhost.trans hh) hpos).trans he)), ?_⟩
  constructor
  case pos => exact State.finish_pos_tail hp hpos
  case regs => exact State.finish_regs_tail hp hpos hregs
  all_goals simpa

/-! ### WREN, WRSR and RESET -/

/-- The run of WREN (R120, R125): the 0x06 window, the poll for WEL, and the end. -/
theorem wren_runs (hu : Undisturbed s) (hc : CalledWith s .wren a0 a1 a2) (ha : s.answers = wel ++ rest)
    (hwel : PollAnswers 0x02 0x02 wel) :
    ∃ u k t, exec .wren s = .next u ∧ Runs k u t ∧
      Finished s t (wrenTrace s.regs.bankBase s.desc.wdiv wel) (controlWord s.desc.wdiv .high .userMode) wel.length := by
  obtain ⟨fs, hp⟩ := hc
  obtain ⟨u1, k1, t1, he1, hr1, hf1⟩ := (sendOnlyTransactionsRun (s.elapse.call .spiWren 0 0 0) 0 0 0 hu).1 ⟨_, rfl⟩
  obtain ⟨hrun1, hst1⟩ := Stretch.of_call hu.1 hp he1 hr1 hf1
  have hu1 := hst1.undisturbed hu
  obtain ⟨u2, k2, t2, he2, hr2, hf2⟩ := statusPollRuns (t1.elapse.call .spoll _ _ _) 0x02 0x02 t1.desc.wdiv wel rest hu1
    ⟨_, rfl⟩ (by simp [hst1.answers, ha]) hwel
  have hE2 : exec .wren t1.elapse = .next (callPoll t1.elapse t1.desc.wdiv maskWel maskWel) := by
    simp [exec, execWren, State.stepNo_of_running (s := t1.elapse) hst1.pos, Frame.start]
  obtain ⟨hrun2, hst2⟩ := Stretch.of_step_call hu1.1 hst1.pos hE2 he2 hr2 hf2
  have hst := hst1.trans hst2
  obtain ⟨hrun, hfin⟩ := hst.finish hu.1 hp (hrun1.trans hrun2) (exec_end hst.pos (.inl ⟨rfl, rfl⟩))
  refine ⟨s.call .spiWren 0 0 0, _, _, ?_, hrun, ?_⟩
  · simp [exec, execWren, State.stepNo_of_running hp, Frame.start]
  · simpa [wrenTrace, spollTrace, hst1.kept.desc, hst1.kept.regs] using hfin

/-- The run of WRSR (R121, R125): WREN, the 0x01 window with the status value, the poll for WIP clear, and the end. -/
theorem wrsr_runs (hu : Undisturbed s) (hc : CalledWith s .wrsr a0 a1 a2) (ha : s.answers = wel ++ wip ++ rest)
    (hwel : PollAnswers 0x02 0x02 wel) (hwip : PollAnswers 0x01 0x00 wip) :
    ∃ u k t, exec .wrsr s = .next u ∧ Runs k u t ∧
      Finished s t (wrsrTrace s.regs.bankBase s.desc.wdiv (statusValue a0) wel wip)
        (controlWord s.desc.wdiv .high .userMode) (wel.length + wip.length) := by
  obtain ⟨fs, hp⟩ := hc
  obtain ⟨u1, k1, t1, he1, hr1, hf1⟩ := wren_runs (s := s.elapse.call .wren 0 0 0) hu ⟨_, rfl⟩
    (ha.trans (List.append_assoc ..)) hwel
  obtain ⟨hrun1, hst1⟩ := Stretch.of_call hu.1 hp he1 hr1 hf1
  have hu1 := hst1.undisturbed hu
  obtain ⟨u2, k2, t2, he2, hr2, hf2⟩ :=
    (sendOnlyTransactionsRun (t1.elapse.call (.spiWrsr (statusValue a0)) 0 0 0) 0 0 0 hu1).2.1 _ ⟨_, rfl⟩
  have hS2 : exec .wrsr t1.elapse = .next (t1.elapse.call (.spiWrsr (statusValue a0)) 0 0 0) := by
    simp [exec, execWrsr, State.stepNo_of_running (s := t1.elapse) hst1.pos,
      State.frame_of_running (s := t1.elapse) hst1.pos, Frame.start]
  obtain ⟨hrun2, hst2⟩ := Stretch.of_step_call hu1.1 hst1.pos hS2 he2 hr2 hf2
  have hu2 := hst2.undisturbed hu1
  obtain ⟨u3, k3, t3, he3, hr3, hf3⟩ := statusPollRuns (t2.elapse.call .spoll _ _ _) 0x01 0x00 t2.desc.wdiv wip rest hu2
    ⟨_, rfl⟩ (by simp [hst2.answers, hst1.answers, ha]) hwip
  have hS3 : exec .wrsr t2.elapse = .next (callPollWip t2.elapse t2.desc.wdiv) := by
    simp [exec, execWrsr, State.stepNo_of_running (s := t2.elapse) hst2.pos, Frame.start]
  obtain ⟨hrun3, hst3⟩ := Stretch.of_step_call hu2.1 hst2.pos hS3 he3 hr3 hf3
  have hst := (hst1.trans hst2).trans hst3
  obtain ⟨hrun, hfin⟩ := hst.finish hu.1 hp ((hrun1.trans hrun2).trans hrun3)
    (exec_end hst.pos (.inr (.inl ⟨.inl rfl, rfl⟩)))
  refine ⟨callWren s, _, _, ?_, hrun, ?_⟩
  · simp [exec, execWrsr, State.stepNo_of_running hp, Frame.start]
  · simpa [wrsrTrace, spollTrace, hst1.kept.desc, hst1.kept.regs, hst2.kept.desc, hst2.kept.regs] using hfin

/-- The run of RESET (R124): its control word, the settle delay, and the end. -/
theorem reset_runs (hu : Undisturbed s) (hc : CalledWith s .reset a0 a1 a2) :
    ∃ u k t, exec .reset s = .next u ∧ Runs k u t ∧
      Finished s t (resetTrace s.desc.rdiv) (controlWord s.desc.rdiv .high .fastRead) 0 := by
  obtain ⟨hh, ho⟩ := hu
  obtain ⟨fs, hp⟩ := hc
  let w := controlWord s.desc.rdiv .high .fastRead
  let u1 : State := { s with
    pos := ⟨.reset, 2, a0, a1, a2, 0⟩ :: fs, ctrl := w, trace := s.trace ++ [.ctrlWrite w] }
  let u2 : State := { u1 with
    pos := ⟨.reset, 3, a0, a1, a2, 0⟩ :: fs, timer := 100, progress := false
    trace := s.trace ++ resetTrace s.desc.rdiv }
  have h1 : exec .reset s = .next u1 := by
    simp only [exec, execReset, State.stepNo_of_running hp, Frame.start]
    rw [State.goto_eq (f := Frame.start .reset a0 a1 a2) (fs := fs) (by simpa using hp), State.ctrlWrite_oracle ho]
    rfl
  have h2 : step u1 = .next u2 := by
    rw [step_of_running (s := u1) (f := ⟨.reset, 2, a0, a1, a2, 0⟩) hh rfl]
    simp [exec, execReset, State.stepNo, State.frame, State.elapse, State.delay, State.emit, State.goto, State.setFrame,
      Config.tCtrl, resetTrace, u2, u1, w]
  have hst : Stretch s u2 (resetTrace s.desc.rdiv) w 0 (⟨.reset, 3, a0, a1, a2, 0⟩ :: fs) := by
    constructor
    case kept => constructor <;> rfl
    all_goals simp [u2, u1]
  obtain ⟨hrun, hfin⟩ := hst.finish hh hp (Runs.one h2) (exec_end hst.pos (.inr (.inr (.inl ⟨rfl, rfl⟩))))
  exact ⟨u1, _, _, h1, hrun, hfin⟩

end Sys2Proof.Machine
end

section
/-! RDID and IDENT from their step 1 to their end (41_identification.md R100 to R111). -/

namespace Sys2Proof.Machine

variable {s : State} {a0 a1 a2 w : Word} {row : PartRow} {wel wip rest : List Word}

/-- Settles O25: the tail is one 32-bit read, of the listed answer. -/
theorem readIdRuns : Obligations.ReadIdRuns := by
  unfold Obligations.ReadIdRuns
  rintro s a0 a1 a2 w rest hu ⟨fs, hp⟩ ha
  have hx := isTxn_rdid a0 a1 a2 s.desc
  exact hx.exec_run (by simp) hu hp rfl (P := fun r => r.word = w)
    fun v hvp hvh hvo hvd hvw hva _ hvr => by
      obtain ⟨x, hx', hword, hT⟩ := hx.tailRead24 hvp hvh hvd hvo hvw (hva.trans ha)
      exact ⟨1, x, 0, hx', hvr ▸ hT, hword⟩

/-! ### The id word -/

/-- The id of a word is its low 24 bits (R64). -/
theorem idOfWord_setWidth (w : Word) : (idOfWord w).setWidth 32 = w &&& 0x00FFFFFF#32 := by
  apply BitVec.eq_of_toNat_eq
  have hand : w.toNat &&& 16777215 % 2 ^ 32 = w.toNat % 2 ^ 24 := Nat.and_two_pow_sub_one_eq_mod w.toNat 24
  simp only [idOfWord, BitVec.toNat_setWidth, BitVec.extractLsb'_toNat, Nat.shiftRight_zero, BitVec.toNat_and,
    BitVec.toNat_ofNat]
  omega

/-- The id IDENT looks up is the id of the word it has stored. -/
theorem idOfWord_stored (w : Word) : idOfWord ((idOfWord w).setWidth 32) = w.extractLsb' 0 24 := by
  apply BitVec.eq_of_toNat_eq
  simp only [idOfWord, BitVec.toNat_setWidth, BitVec.extractLsb'_toNat, Nat.shiftRight_zero]
  omega

/-! ### The steps of IDENT between its calls -/

/-- IDENT is the command itself, at step `n`. -/
def identAt (a0 a1 a2 : Word) (n : Nat) : List Frame := [⟨.ident, n, a0, a1, a2, 0⟩]

/-- A step of IDENT that updates the state to `x` and goes to step `m`. -/
theorem step_identAt {n m : Nat} (x : State) (hh : s.host = []) (hp : s.pos = identAt a0 a1 a2 n) (hxp : x.pos = s.pos)
    (hx : s.elapse.stepNo = n → execIdent s.elapse = .next (x.goto m)) :
    step s = .next { x with pos := identAt a0 a1 a2 m } :=
  (step_of_running hh hp).trans <| (hx (State.stepNo_of_running (s := s.elapse) hp)).trans <|
    congrArg _ (State.goto_eq (hxp.trans hp) m)

/-- Step I2. -/
theorem step_ident_storeId (hh : s.host = []) (hp : s.pos = identAt a0 a1 a2 2) :
    step s = .next { s with
      pos := identAt a0 a1 a2 3, timer := 0, progress := false, desc.id := (idOfWord s.work.word).setWidth 32 } :=
  step_identAt { s.elapse with desc.id := (idOfWord s.work.word).setWidth 32 } hh hp rfl fun hn => by
    simp [execIdent, hn]

/-- Step I3. -/
theorem step_ident_lookUp (hh : s.host = []) (hp : s.pos = identAt a0 a1 a2 3) :
    step s = .next { s with pos := identAt a0 a1 a2 4, timer := 0, progress := false } :=
  step_identAt s.elapse hh hp rfl fun hn => by simp [execIdent, hn]

/-- Step I4. -/
theorem step_ident_clearFlags (hh : s.host = []) (hp : s.pos = identAt a0 a1 a2 4) :
    step s = .next { s with
      pos := identAt a0 a1 a2 5, timer := 0, progress := false, prot := List.replicate s.prot.length false } :=
  step_identAt { s.elapse with prot := List.replicate s.prot.length false } hh hp rfl fun hn => by simp [execIdent, hn]

/-- The state at step I10 of an unknown part. -/
def State.foundUnknown (s : State) (a0 a1 a2 : Word) : State :=
  { s with pos := identAt a0 a1 a2 10, timer := 0, progress := false, desc := unknownPart s.desc }

/-- Step I5 for an id that is not in the table. -/
theorem step_ident_unknown (hh : s.host = []) (hp : s.pos = identAt a0 a1 a2 5) (hrow : s.elapse.row = none) :
    step s = .next (s.foundUnknown a0 a1 a2) :=
  step_identAt { s.elapse with desc := unknownPart s.desc } hh hp rfl fun hn => by simp [execIdent, hn, hrow]

/-- Step I5 for an id in the table. -/
theorem step_ident_known (hh : s.host = []) (hp : s.pos = identAt a0 a1 a2 5) (hrow : s.elapse.row = some row) :
    step s = .next { s with pos := identAt a0 a1 a2 6, timer := 0, progress := false } :=
  step_identAt s.elapse hh hp rfl fun hn => by simp [execIdent, hn, hrow]

/-- Step I6. -/
theorem step_ident_copyRow (hh : s.host = []) (hp : s.pos = identAt a0 a1 a2 6) (hrow : s.elapse.row = some row) :
    step s = .next { s with pos := identAt a0 a1 a2 7, timer := 0, progress := false, desc := copyRow s.desc row } :=
  step_identAt { s.elapse with desc := copyRow s.desc row } hh hp rfl fun hn => by simp [execIdent, hn, hrow]

/-- Step I7. -/
theorem step_ident_readClock (hh : s.host = []) (hp : s.pos = identAt a0 a1 a2 7) :
    step s = .next { s with
      pos := identAt a0 a1 a2 8, timer := 0, progress := false, work.word := s.clkCfg
      trace := s.trace ++ [.clkCfgRead s.clkCfg] } :=
  step_identAt s.elapse.clkCfgRead hh hp rfl fun hn => by simp [execIdent, hn]

/-- Step I8. -/
theorem step_ident_calibrate (hh : s.host = []) (hp : s.pos = identAt a0 a1 a2 8) (hrow : s.elapse.row = some row) :
    step s = .next { s with
      pos := identAt a0 a1 a2 9, timer := 0, progress := false
      desc := calibrated s.desc (effFreq s.par s.work.word) row } :=
  step_identAt { s.elapse with desc := calibrated s.desc (effFreq s.par s.work.word) row } hh hp rfl fun hn => by
    simp [execIdent, hn, hrow]

/-- The state at step I5, once RDID has returned: the id of the word read is in `ID`, and the flags are clear. -/
def State.atLookup (s : State) (a0 a1 a2 : Word) : State :=
  { s with
    pos := identAt a0 a1 a2 5, timer := 0, progress := false, desc.id := (idOfWord s.work.word).setWidth 32
    prot := List.replicate s.prot.length false }

/-- Steps I2 to I4. -/
theorem ident_to_lookup (hh : s.host = []) (hp : s.pos = identAt a0 a1 a2 2) : Runs 3 s (s.atLookup a0 a1 a2) :=
  Runs.succ (step_ident_storeId hh hp) <| Runs.succ (step_ident_lookUp hh rfl) <| Runs.one (step_ident_clearFlags hh rfl)

/-- The state at step I9: the row is copied, and the three codes are calibrated from one clock read. -/
def State.calibratedFor (s : State) (a0 a1 a2 : Word) (row : PartRow) : State :=
  { s with
    pos := identAt a0 a1 a2 9, timer := 0, progress := false, work.word := s.clkCfg
    desc := calibrated (copyRow s.desc row) (effFreq s.par s.clkCfg) row
    trace := s.trace ++ [.clkCfgRead s.clkCfg] }

/-- Steps I5 to I8: the row found at I5 is the one of I6 and I8, as none of them changes `ID`. -/
theorem ident_to_calibrated (hh : s.host = []) (hp : s.pos = identAt a0 a1 a2 5) (hrow : s.row = some row) :
    Runs 4 s (s.calibratedFor a0 a1 a2 row) :=
  Runs.succ (step_ident_known hh hp hrow) <| Runs.succ (step_ident_copyRow hh rfl hrow) <|
    Runs.succ (step_ident_readClock hh rfl) <| Runs.one (step_ident_calibrate hh rfl hrow)

/-! ### The calls of IDENT -/

/-- Step I1: RDID runs and leaves the word read. -/
theorem ident_reads_id (hu : Undisturbed s) (hp : s.pos = identAt a0 a1 a2 1) (ha : s.answers = w :: rest) :
    ∃ k t, Runs k (s.call .rdid 0 0 0) t ∧ t.work.word = w ∧
      Stretch s t (rdidTrace s.regs.bankBase w) (controlWord 0 .high .userMode) 1 (identAt a0 a1 a2 2) := by
  obtain ⟨u, k, t, he, hr, hword, hfin⟩ := readIdRuns (s.elapse.call .rdid 0 0 0) 0 0 0 w rest hu ⟨_, rfl⟩ ha
  obtain ⟨hrun, hst⟩ := Stretch.of_call hu.1 hp he hr hfin
  exact ⟨_, t, hrun, hword, hst⟩

/-- Step I9: the global unprotect, a WRSR of 0 (R109). -/
theorem ident_unprotects (hu : Undisturbed s) (hp : s.pos = identAt a0 a1 a2 9) (ha : s.answers = wel ++ wip ++ rest)
    (hwel : PollAnswers 0x02 0x02 wel) (hwip : PollAnswers 0x01 0x00 wip) :
    ∃ k t, Runs k s t ∧ Stretch s t (wrsrTrace s.regs.bankBase s.desc.wdiv 0x00 wel wip)
      (controlWord s.desc.wdiv .high .userMode) (wel.length + wip.length) (identAt a0 a1 a2 10) := by
  obtain ⟨u, k, t, he, hr, hfin⟩ := wrsr_runs (s := s.elapse.call .wrsr 0 0 0) hu ⟨_, rfl⟩ ha hwel hwip
  have hI9 : exec .ident s.elapse = .next (s.elapse.call .wrsr 0 0 0) := by
    simp [exec, execIdent, State.stepNo_of_running (s := s.elapse) hp]
  obtain ⟨hrun, hst⟩ := Stretch.of_step_call hu.1 hp hI9 he hr hfin
  exact ⟨_, t, hrun, hst⟩

/-- Steps I10 and I11: the controller reset (R110), and the completion. -/
theorem ident_ends (hu : Undisturbed s) (hp : s.pos = identAt a0 a1 a2 10) :
    ∃ k t, Runs k s ({ t.elapse with desc.identified := true }.complete 0) ∧
      Stretch s t (resetTrace s.desc.rdiv) (controlWord s.desc.rdiv .high .fastRead) 0 (identAt a0 a1 a2 11) := by
  obtain ⟨u, k, t, he, hr, hfin⟩ := reset_runs (s := s.elapse.call .reset 0 0 0) hu ⟨_, rfl⟩
  have hI10 : exec .ident s.elapse = .next (s.elapse.call .reset 0 0 0) := by
    simp [exec, execIdent, State.stepNo_of_running (s := s.elapse) hp]
  obtain ⟨hrun, hst⟩ := Stretch.of_step_call hu.1 hp hI10 he hr hfin
  refine ⟨_, t, hrun.trans (Runs.one ?_), hst⟩
  rw [step_of_running (hst.undisturbed hu).1 hst.pos]
  simp [exec, execIdent, State.stepNo_of_running (s := t.elapse) hst.pos]

/-! ### The whole of IDENT -/

theorem exec_ident_start (hp : s.pos = identAt a0 a1 a2 1) : exec .ident s = .next (s.call .rdid 0 0 0) := by
  simp [exec, execIdent, State.stepNo_of_running hp]

/-- The row IDENT finds is that of the word it read. -/
theorem State.atLookup_row (s : State) (a0 a1 a2 : Word) :
    (s.atLookup a0 a1 a2).row = tableLookup s.par (s.work.word.extractLsb' 0 24) :=
  congrArg (tableLookup s.par) (idOfWord_stored s.work.word)

/-- Settles O34: after the lookup only the controller reset is left. -/
theorem identifyUnknownPartRuns : Obligations.IdentifyUnknownPartRuns := by
  unfold Obligations.IdentifyUnknownPartRuns
  rintro s w rest hu ⟨a0, a1, a2, hp⟩ ha hrow
  obtain ⟨k1, t1, hr1, rfl, hst1⟩ := ident_reads_id hu hp ha
  have hu1 := hst1.undisturbed hu
  have hr2 := ident_to_lookup hu1.1 hst1.pos
  have hrow1 : (t1.atLookup a0 a1 a2).row = none := by rw [State.atLookup_row, hst1.kept.par, hrow]
  have hr3 := Runs.one (step_ident_unknown (s := t1.atLookup a0 a1 a2) hu1.1 rfl hrow1)
  obtain ⟨k4, t4, hr4, hst4⟩ := ident_ends (s := (t1.atLookup a0 a1 a2).foundUnknown a0 a1 a2) hu1 rfl
  refine ⟨_, _, _, exec_ident_start hp, ((hr1.trans hr2).trans hr3).trans hr4, rfl, ?_⟩
  have hcw : controlWord 0#3 .high .fastRead = 0x00000005#32 := by decide
  simp [hst4.kept.regs, hst4.kept.desc, hst4.kept.prot, hst4.kept.buf, hst4.ctrl, hst4.answers, hst4.trace,
    State.foundUnknown, unknownPart, State.atLookup, idOfWord_setWidth, List.map_const', hcw,
    hst1.kept.regs, hst1.kept.desc, hst1.kept.prot, hst1.kept.buf, hst1.answers, hst1.trace, ha]

/-- Settles O33: after the lookup the row is copied and the clock read, then come the global unprotect and the controller
reset. -/
theorem identifyKnownPartRuns : Obligations.IdentifyKnownPartRuns := by
  unfold Obligations.IdentifyKnownPartRuns
  rintro s w wel wip rest row hu ⟨a0, a1, a2, hp⟩ ha hwel hwip hrow
  obtain ⟨k1, t1, hr1, rfl, hst1⟩ := ident_reads_id hu hp ha
  have hu1 := hst1.undisturbed hu
  have hr2 := ident_to_lookup hu1.1 hst1.pos
  have hrow1 : (t1.atLookup a0 a1 a2).row = some row := by rw [State.atLookup_row, hst1.kept.par, hrow]
  have hr3 := ident_to_calibrated (s := t1.atLookup a0 a1 a2) hu1.1 rfl hrow1
  obtain ⟨k4, t4, hr4, hst4⟩ := ident_unprotects (s := (t1.atLookup a0 a1 a2).calibratedFor a0 a1 a2 row)
    (rest := rest) hu1 rfl (hst1.answers.trans (by simp [ha])) hwel hwip
  obtain ⟨k5, t5, hr5, hst5⟩ := ident_ends (hst4.undisturbed hu1) hst4.pos
  refine ⟨_, _, _, exec_ident_start hp, (((hr1.trans hr2).trans hr3).trans hr4).trans hr5, rfl, ?_⟩
  simp [hst5.kept.regs, hst5.kept.desc, hst5.kept.prot, hst5.kept.buf, hst5.kept.par, hst5.kept.clkCfg, hst5.ctrl,
    hst5.answers, hst5.trace, hst4.kept.regs, hst4.kept.desc, hst4.kept.prot, hst4.kept.buf, hst4.kept.par,
    hst4.kept.clkCfg, hst4.answers, hst4.trace, State.calibratedFor, calibrated, copyRow, State.atLookup,
    idOfWord_setWidth, List.map_const', hst1.kept.regs, hst1.kept.desc, hst1.kept.prot, hst1.kept.buf, hst1.kept.par,
    hst1.kept.clkCfg, hst1.answers, hst1.trace, ha]

end Sys2Proof.Machine
end

section
/-! The page-program transaction and the primitives from their step 1 to their end (42_primitives.md R120 to R125): PP and
SE are WREN, one transaction and the poll for WIP clear. -/

namespace Sys2Proof.Machine

variable {s : State} {op tx : Instr} {a0 a1 a2 x0 x1 x2 : Word} {d : Descriptor} {div : DivCode} {fs : List Frame}
  {acts : List PortAction} {wel wip rest : List Word}

/-! ### The page-program transaction -/

/-- Settles O27: the tail sends the bytes from `k = 0` on. -/
theorem pageProgramTransactionRuns : Obligations.PageProgramTransactionRuns := by
  unfold Obligations.PageProgramTransactionRuns
  rintro s b2 b1 b0 src n a2 hu ⟨fs, hp⟩
  have hx := isTxn_spiPp b2 b1 b0 src n a2 s.desc
  obtain ⟨u, k, t, he, hr, -, hfin⟩ := hx.exec_run (by simp) hu hp rfl (P := fun _ => True)
    fun v hvp hvh hvo hvd hvw _ hvb hvr => by
      obtain ⟨m, w, j, hw, hT⟩ := hx.tailData n.toNat (Nat.zero_add _) hvp hvh hvd hvo hvw
      exact ⟨m, w, j, hw, hvr ▸ hvb ▸ hT, trivial⟩
  exact ⟨u, k, t, he, hr, hfin⟩

/-! ### WREN, a transaction, and a poll -/

/-- The steps of `op`, called with these arguments under the descriptor `d`, are a call of WREN, of the transaction `tx`
and of the poll for WIP clear at the divisor code `div`, and the end. -/
structure IsWrite (op : Instr) (a0 a1 a2 : Word) (d : Descriptor) (tx : Instr) (x0 x1 x2 : Word) (div : DivCode) :
    Prop where
  enable : ∀ {s : State} {fs : List Frame}, s.pos = ⟨op, 1, a0, a1, a2, 0⟩ :: fs → exec op s = .next (callWren s)
  send : ∀ {s : State} {fs : List Frame}, s.pos = ⟨op, 2, a0, a1, a2, 0⟩ :: fs → exec op s = .next (s.call tx x0 x1 x2)
  poll : ∀ {s : State} {fs : List Frame}, s.pos = ⟨op, 3, a0, a1, a2, 0⟩ :: fs → s.desc = d →
    exec op s = .next (callPollWip s div)
  done : ∀ {s : State} {fs : List Frame}, s.pos = ⟨op, 4, a0, a1, a2, 0⟩ :: fs → exec op s = .next s.finish

theorem isWrite_pp (off src n : Word) (d : Descriptor) :
    IsWrite .pp off src n d (.spiPp (addrHigh off) (addrMid off) (addrLow off)) src n 0 d.wdiv where
  enable hp := by simp [exec, execPp, State.stepNo_of_running hp]
  send hp := by simp [exec, execPp, State.stepNo_of_running hp, State.frame_of_running hp]
  poll hp hd := by simp [exec, execPp, State.stepNo_of_running hp, hd]
  done hp := exec_end hp (.inr (.inl ⟨.inr (.inl rfl), rfl⟩))

/-- The erase transaction and its poll run at `EDIV` (R125). -/
theorem isWrite_se (off a1 a2 : Word) (d : Descriptor) :
    IsWrite .se off a1 a2 d (.spiSe (addrHigh off) (addrMid off) (addrLow off)) 0 0 0 d.ediv where
  enable hp := by simp [exec, execSe, State.stepNo_of_running hp]
  send hp := by simp [exec, execSe, State.stepNo_of_running hp, State.frame_of_running hp]
  poll hp hd := by simp [exec, execSe, State.stepNo_of_running hp, hd]
  done hp := exec_end hp (.inr (.inl ⟨.inr (.inr rfl), rfl⟩))

/-- Where the transaction runs, so does the whole: WREN, the transaction, the poll, each returning to the step after its
call. -/
theorem IsWrite.run (hx : IsWrite op a0 a1 a2 s.desc tx x0 x1 x2 div) (hu : Undisturbed s)
    (hc : CalledWith s op a0 a1 a2) (ha : s.answers = wel ++ wip ++ rest) (hwel : PollAnswers 0x02 0x02 wel)
    (hwip : PollAnswers 0x01 0x00 wip)
    (htx : ∀ u : State, Undisturbed u → CalledWith u tx x0 x1 x2 → Kept s u →
      ∃ v k t, exec tx u = .next v ∧ Runs k v t ∧ Finished u t acts (controlWord div .high .userMode) 0) :
    ∃ u k t, exec op s = .next u ∧ Runs k u t ∧
      Finished s t (wrenTrace s.regs.bankBase s.desc.wdiv wel ++ acts ++ spollTrace s.regs.bankBase div wip)
        (controlWord div .high .userMode) (wel.length + wip.length) := by
  obtain ⟨fs, hp⟩ := hc
  obtain ⟨u1, k1, t1, he1, hr1, hf1⟩ := wren_runs (s := s.elapse.call .wren 0 0 0) hu ⟨_, rfl⟩
    (ha.trans (List.append_assoc ..)) hwel
  obtain ⟨hrun1, hst1⟩ := Stretch.of_call hu.1 hp he1 hr1 hf1
  have hu1 := hst1.undisturbed hu
  obtain ⟨u2, k2, t2, he2, hr2, hf2⟩ := htx (t1.elapse.call tx x0 x1 x2) hu1 ⟨_, rfl⟩
    ((hst1.kept.trans (Stretch.elapse t1).kept).trans (Stretch.call t1.elapse tx x0 x1 x2).kept)
  obtain ⟨hrun2, hst2⟩ := Stretch.of_step_call hu1.1 hst1.pos (hx.send hst1.pos) he2 hr2 hf2
  have hu2 := hst2.undisturbed hu1
  have hst12 := hst1.trans hst2
  obtain ⟨u3, k3, t3, he3, hr3, hf3⟩ := statusPollRuns (t2.elapse.call .spoll _ _ _) 0x01 0x00 div wip rest hu2
    ⟨_, rfl⟩ (by simp [hst12.answers, ha]) hwip
  obtain ⟨hrun3, hst3⟩ := Stretch.of_step_call hu2.1 hst2.pos (hx.poll hst2.pos hst12.kept.desc) he3 hr3 hf3
  have hst := hst12.trans hst3
  obtain ⟨hrun, hfin⟩ := hst.finish hu.1 hp ((hrun1.trans hrun2).trans hrun3) (hx.done hst.pos)
  refine ⟨callWren s, _, _, hx.enable hp, hrun, ?_⟩
  simpa [spollTrace, hst12.kept.regs] using hfin

/-! ### The primitives -/

/-- Settles O28, by the run of WREN. -/
theorem writeEnableRuns : Obligations.WriteEnableRuns := by
  unfold Obligations.WriteEnableRuns
  exact fun s a0 a1 a2 wel rest hu hc ha hwel => wren_runs hu hc ha hwel

/-- Settles O29, by the run of WRSR. -/
theorem statusWriteRuns : Obligations.StatusWriteRuns := by
  unfold Obligations.StatusWriteRuns
  exact fun s v a1 a2 wel wip rest hu hc ha hwel hwip => wrsr_runs hu hc ha hwel hwip

/-- Settles O30: WREN and the poll change neither the buffer nor the descriptor the transaction reads. -/
theorem pageProgramRuns : Obligations.PageProgramRuns := by
  unfold Obligations.PageProgramRuns
  intro s off src n wel wip rest hu hc ha hwel hwip
  refine (isWrite_pp off src n s.desc).run hu hc ha hwel hwip fun u hu' hc' hkept => ?_
  rw [← hkept.regs, ← hkept.desc, ← hkept.buf]
  exact pageProgramTransactionRuns u _ _ _ src n 0 hu' hc'

/-- Settles O31: the transaction is the one of R123, at `EDIV`. -/
theorem sectorEraseRuns : Obligations.SectorEraseRuns := by
  unfold Obligations.SectorEraseRuns
  intro s off a1 a2 wel wip rest hu hc ha hwel hwip
  refine (isWrite_se off a1 a2 s.desc).run hu hc ha hwel hwip fun u hu' hc' hkept => ?_
  rw [← hkept.regs, ← hkept.desc]
  exact (sendOnlyTransactionsRun u 0 0 0 hu').2.2 _ _ _ hc'

/-- Settles O32, by the run of RESET. -/
theorem controllerResetRuns : Obligations.ControllerResetRuns := by
  unfold Obligations.ControllerResetRuns
  exact fun s a0 a1 a2 hu hc => reset_runs hu hc

end Sys2Proof.Machine
end

section
/-! What the primitives' own steps leave unchanged (42_primitives.md R120 to R124, R126). -/

namespace Sys2Proof.Machine

variable {i : Instr} {s t : State}

/-- What one step of WREN, WRSR, PP or SE can do: call a procedure, or end. -/
inductive CallCase (s : State) : State → Prop where
  | call (op : Instr) (a0 a1 a2 : Word) : CallCase s (s.call op a0 a1 a2)
  | finish : CallCase s s.finish

theorem exec_primitive_eq_next (hi : i = .wren ∨ i = .wrsr ∨ i = .pp ∨ i = .se) (h : exec i s = .next t) :
    CallCase s t := by
  obtain rfl | rfl | rfl | rfl := hi
  · simp only [exec, execWren] at h
    split at h <;> cases h
    case h_3 => exact .finish
    all_goals exact .call ..
  all_goals
    simp only [exec, execWrsr, execPp, execSe] at h
    split at h <;> cases h
    case h_4 => exact .finish
    all_goals exact .call ..

/-- The end of a procedure changes the position and the status only. -/
theorem State.finish_eq (s : State) : s.finish = { s with pos := s.finish.pos, regs := s.finish.regs } := by
  unfold State.finish
  split <;> rfl

/-- Settles O45, by what one step of these primitives can do. -/
theorem primitiveFrame : Obligations.PrimitiveFrame := by
  unfold Obligations.PrimitiveFrame
  intro i s t hi h
  cases exec_primitive_eq_next hi h with
  | call => exact ⟨.inl rfl, rfl⟩
  | finish => exact ⟨s.finish_status, s.finish_eq⟩

/-- What one step of RESET can do (R124): the control write, the settle delay, or the end. -/
inductive ResetCase (s : State) : State → Prop where
  | write (w : Word) : ResetCase s ((s.ctrlWrite w).goto 2)
  | settle (n : Nat) : ResetCase s ((s.delay n).goto 3)
  | finish : ResetCase s s.finish

theorem execReset_eq_next (h : execReset s = .next t) : ResetCase s t := by
  unfold execReset at h
  split at h <;> cases h
  · exact .write _
  · exact .settle _
  · exact .finish

/-- Settles O46: the control write touches the part, its draws and `CTRL` only, and puts no part where there is none. -/
theorem controllerResetFrame : Obligations.ControllerResetFrame := by
  unfold Obligations.ControllerResetFrame
  intro s t h
  cases execReset_eq_next h with
  | write w =>
    have hpart : s.part = none → (s.ctrlWrite w).part = none := fun ho => by simp [State.ctrlWrite_oracle ho, ho]
    simpa [StatusFrame] using hpart
  | settle n => simp [StatusFrame]
  | finish => simp [State.finish_status]

end Sys2Proof.Machine
end

section
/-! What one step of ERASE, WBUF and RBUF can do, and what these commands' own steps leave unchanged
(43_range_and_buffer.md R140 to R147). -/

namespace Sys2Proof.Machine

variable {s t : State}

/-! ### ERASE -/

/-- What one step of ERASE can do: update the result registers, `w_i` and the pulse, call a procedure, or complete with
code 0 or 1. -/
inductive EraseCase (s : State) : State → Prop where
  | update (r0 r1 i : Word) (p : Bool) (n : Nat) :
      EraseCase s ({ s with regs.result0 := r0, regs.result1 := r1, work.i := i, progress := p }.goto n)
  | call (op : Instr) (a0 a1 a2 : Word) : EraseCase s (s.call op a0 a1 a2)
  | complete (rc : BitVec 2) (hrc : rc = 0 ∨ rc = 1) : EraseCase s (s.complete rc)

theorem execErase_eq_next (h : execErase s = .next t) : EraseCase s t := by
  unfold execErase at h
  split at h
  case h_1 | h_3 | h_4 | h_6 | h_8 => cases h; exact .update ..
  case h_2 =>
    split at h
    · cases h; exact .complete 1 (.inr rfl)
    · split at h <;> cases h
      exact .update s.regs.result0 s.regs.result1 s.work.i s.progress 3
  case h_5 =>
    split at h <;> cases h
    · exact .update s.regs.result0 s.regs.result1 s.work.i s.progress 7
    · exact .call ..
  case h_7 => split at h <;> cases h <;> exact .update s.regs.result0 s.regs.result1 s.work.i s.progress _
  case h_9 => cases h; exact .call ..
  case h_10 => cases h; exact .complete 0 (.inl rfl)
  case h_11 => cases h

/-- Settles O48, by what one step of ERASE can do. -/
theorem eraseFrame : Obligations.EraseFrame := by
  unfold Obligations.EraseFrame
  intro s t h
  cases execErase_eq_next h with
  | update | call => simp
  | complete rc hrc => simpa using Or.inr hrc

/-- At step A2 a valid range is refused exactly when its last sector does not exist. -/
theorem execErase_refused_iff (hn : s.stepNo = 2) (hv : eraseRangeInvalid s.work.a0 s.work.a1 = false) :
    execErase s = .refused .eraseBeyondSectors ↔ eraseRangeExists s s.work.a1 = false := by
  cases he : eraseRangeExists s s.work.a1 <;> simp [execErase, hn, hv, he]

/-- A range is valid when its first sector is not negative and not beyond its last, both signed (R141). -/
theorem eraseRangeInvalid_eq_false {first last : Word} :
    eraseRangeInvalid first last = false ↔ 0 ≤ first.toInt ∧ first.toInt ≤ last.toInt := by
  simp [eraseRangeInvalid]

theorem eraseRangeExists_eq_false {last : Word} :
    eraseRangeExists s last = false ↔
      s.prot.length ≤ last.toNat ∨ (s.desc.nsect ≠ 0 ∧ s.desc.nsect.toNat ≤ last.toNat) := by
  simp [eraseRangeExists, Decidable.imp_iff_not_or]

/-- Settles O38: the range is valid, so step A2 refuses it exactly when its last sector does not exist. -/
theorem eraseBeyondTheSectorsIsRefused : Obligations.EraseBeyondTheSectorsIsRefused := by
  unfold Obligations.EraseBeyondTheSectorsIsRefused
  intro s f fs hp hn h0 hle
  rw [← eraseRangeExists_eq_false]
  exact execErase_refused_iff ((State.stepNo_of_running hp).trans hn) (eraseRangeInvalid_eq_false.2 ⟨h0, hle⟩)

/-! ### WBUF -/

/-- What one step of WBUF can do: update its four working registers, call a procedure, or complete. -/
inductive WbufCase (s : State) : State → Prop where
  | update (src off cnt n : Word) (m : Nat) :
      WbufCase s ({ s with work := { s.work with src := src, off := off, cnt := cnt, n := n } }.goto m)
  | call (op : Instr) (a0 a1 a2 : Word) : WbufCase s (s.call op a0 a1 a2)
  | complete : WbufCase s (s.complete 0)

theorem execWbuf_eq_next (h : execWbuf s = .next t) : WbufCase s t := by
  unfold execWbuf at h
  split at h
  case h_1 | h_3 | h_5 => cases h; exact .update ..
  case h_2 => split at h <;> cases h <;> exact .update s.work.src s.work.off s.work.cnt s.work.n _
  case h_4 | h_6 => cases h; exact .call ..
  case h_7 => cases h; exact .complete
  case h_8 => cases h

/-- Settles O49, by what one step of WBUF can do. -/
theorem bufferedWriteFrame : Obligations.BufferedWriteFrame := by
  unfold Obligations.BufferedWriteFrame
  intro s t h
  cases execWbuf_eq_next h <;> simp [StatusFrame]

/-! ### RBUF -/

/-- What one step of RBUF can do: update its three working registers, load, store where `rbufStoreAddr` says, or
complete. -/
inductive RbufCase (s : State) : State → Prop where
  | update (src dst cnt : Word) (n : Nat) (h3 : s.stepNo ≠ 3) (h10 : s.stepNo ≠ 10) (hs : rbufStoreAddr s = none) :
      RbufCase s ({ s with work := { s.work with src := src, dst := dst, cnt := cnt } }.goto n)
  | loadWord (h : s.stepNo = 3) : RbufCase s ((s.winRead32 s.work.src).goto 4)
  | loadByte (h : s.stepNo = 10) : RbufCase s ((s.winRead8 s.work.src).goto 11)
  | store (a : Word) (b : Byte) (n : Nat) (h3 : s.stepNo ≠ 3) (h10 : s.stepNo ≠ 10)
      (hs : rbufStoreAddr s = some a) : RbufCase s ((s.bufWrite8 a b).goto n)
  | complete (h3 : s.stepNo ≠ 3) (h10 : s.stepNo ≠ 10) (hs : rbufStoreAddr s = none) : RbufCase s (s.complete 0)

theorem execRbuf_eq_next (h : execRbuf s = .next t) : RbufCase s t := by
  unfold execRbuf at h
  split at h
  case h_3 hn => cases h; exact .loadWord hn
  case h_10 hn => cases h; exact .loadByte hn
  case h_4 hn | h_5 hn | h_6 hn | h_7 hn | h_11 hn =>
    cases h; exact .store _ _ _ (by simp [hn]) (by simp [hn]) (by simp [rbufStoreAddr, hn])
  case h_13 hn => cases h; exact .complete (by simp [hn]) (by simp [hn]) (by simp [rbufStoreAddr, hn])
  case h_14 => cases h
  case h_2 hn | h_9 hn =>
    split at h <;> cases h <;>
      exact .update s.work.src s.work.dst s.work.cnt _ (by simp [hn]) (by simp [hn]) (by simp [rbufStoreAddr, hn])
  case h_1 hn | h_8 hn | h_12 hn =>
    cases h; exact .update _ _ _ _ (by simp [hn]) (by simp [hn]) (by simp [rbufStoreAddr, hn])

/-- What a read of `n` bytes by RBUF makes of the part: with the window open it shifts `n` bytes out of it, which leaves
its array; with the window closed it leaves the part. -/
theorem State.afterWindow_part (s : State) (a : Word) (n : Nat) :
    (windowOpen s.ctrl = false → (s.afterWindow a n).part = s.part) ∧
    (s.part = none → (s.afterWindow a n).part = none) ∧
    (s.afterWindow a n).part.map RefPart.array = s.part.map RefPart.array ∧
    (windowOpen s.ctrl = true → (s.afterWindow a n).part = s.part.map fun p => p.shiftOut n) := by
  cases hw : windowOpen s.ctrl with
  | false => simp [State.afterWindow_part_closed hw]
  | true => simp [State.afterWindow_part_open hw, Function.comp_def]

@[simp] theorem State.winRead32_part (s : State) (a : Word) : (s.winRead32 a).part = (s.afterWindow a 4).part := rfl
@[simp] theorem State.winRead8_part (s : State) (a : Word) : (s.winRead8 a).part = (s.afterWindow a 1).part := rfl

/-- Settles O50: a load touches the part as `afterWindow` does, and a store changes the one byte. -/
theorem readPathFrame : Obligations.ReadPathFrame := by
  unfold Obligations.ReadPathFrame
  intro s t h
  cases execRbuf_eq_next h with
  | update _ _ _ _ h3 h10 hs => simp [StatusFrame, h3, h10, hs]
  | complete h3 h10 hs => simp [StatusFrame, h3, h10, hs]
  | store a b n h3 h10 hs =>
    have hother : ∀ c, c ≠ a.toNat → Memory.read (s.buf.write a.toNat b) c = Memory.read s.buf c :=
      fun c hc => Memory.read_write_other s.buf a.toNat c b hc
    simpa [StatusFrame, h3, h10, hs] using hother
  | loadWord hn => simpa [StatusFrame, hn, rbufStoreAddr] using s.afterWindow_part s.work.src 4
  | loadByte hn => simpa [StatusFrame, hn, rbufStoreAddr] using s.afterWindow_part s.work.src 1

end Sys2Proof.Machine
end

section
/-! The chunks of a buffered write (43_range_and_buffer.md R146), and the protected flags `FLASH_INIT` sets (R149). -/

namespace Sys2Proof.Machine

variable {s : State} {i v : Word} {rest : List HostAction}

/-! ### Chunks -/

theorem chunkLength_toNat (off cnt : Word) : (chunkLength off cnt).toNat = min (256 - off.toNat % 256) cnt.toNat := by
  have := cnt.isLt
  simp only [chunkLength, Config.page, BitVec.toNat_ofNat]
  omega

/-- Settles O8: the chunk is the shorter of the rest of the page and the rest of the count. -/
theorem chunkStaysInItsPage : Obligations.ChunkStaysInItsPage := by
  unfold Obligations.ChunkStaysInItsPage
  intro off cnt hcnt
  have hpos : 0 < cnt.toNat := by bv_omega
  simp only [chunkLength_toNat]
  omega

/-! ### FLASH_INIT -/

/-- A write to `PROT_DATA` while not busy sets the flag `PROT_IDX` names; where it names none, `List.set` sets none. -/
theorem step_of_write_protData (hb : s.regs.busy = false) (hh : s.host = .write (regOffset .protData) v :: rest) :
    step s = .next { s with host := rest, prot := s.prot.set s.regs.protIdx.toNat (v.getLsbD 0) } := by
  rw [step_of_write .protData hh]
  by_cases hle : s.prot.length ≤ s.regs.protIdx.toNat
  · simp [writeReg, hle, List.set_eq_of_length_le hle]
  · simp [writeReg, hle, hb]

/-- The two writes that protect a sector. -/
theorem protect_runs (hb : s.regs.busy = false)
    (hh : s.host = .write (regOffset .protIdx) i :: .write (regOffset .protData) 1 :: rest) :
    Runs 2 s { s with host := rest, regs.protIdx := i, prot := s.prot.set i.toNat true } :=
  Runs.succ (step_of_write .protIdx hh) (Runs.one (step_of_write_protData (v := 1) hb rfl))

theorem protAt_set_true (p : List Bool) (k j : Nat) :
    protAt (p.set k true) j = (protAt p j || (decide (j < p.length) && decide (k = j))) := by
  by_cases hk : k = j
  · subst hk
    by_cases hlt : k < p.length
    · simp [protAt_set_same hlt, hlt]
    · simp [List.set_eq_of_length_le (Nat.not_lt.1 hlt), hlt]
  · simp [protAt_set_other p (Ne.symm hk), hk]

/-- Settles O19, by induction on the sectors: each takes the two writes. -/
theorem flashInitProtectsItsSectors : Obligations.FlashInitProtectsItsSectors := by
  unfold Obligations.FlashInitProtectsItsSectors
  intro s protect rest hb hh
  induction protect generalizing s with
  | nil => exact ⟨s, Runs.zero s, hh, rfl, rfl, by simp⟩
  | cons i is ih =>
    obtain ⟨t, hr, hhost, htrace, hdesc, hprot⟩ := ih
      { s with
        host := (is.flatMap fun i => [HostAction.write 0x38 i, .write 0x3C 1]) ++ rest
        regs.protIdx := i, prot := s.prot.set i.toNat true } hb rfl
    refine ⟨t, ?_, hhost, htrace, hdesc, fun j => ?_⟩
    · rw [List.length_cons, Nat.mul_succ, Nat.add_comm]
      exact (protect_runs hb hh).trans hr
    · simp [hprot j, protAt_set_true, Bool.and_or_distrib_left, Bool.or_assoc]

end Sys2Proof.Machine
end

section
/-! Runs of the commands that call procedures in a loop (43_range_and_buffer.md R140, R145): what a leg of such a run
leaves, one step of the command itself, and the end by a controller reset. -/

namespace Sys2Proof.Machine

variable {s t u : State} {op : Instr} {a0 a1 a2 c : Word} {m n : Nat} {acts acts' : List PortAction}
  {p q : List Frame}

/-- A leg of a run of a command: the port actions `acts` were made, `n` answers drawn, and the position is `p`. The
registers of the command interface and the working registers may have changed, as the command's own steps do. -/
structure Leg (s t : State) (acts : List PortAction) (n : Nat) (p : List Frame) : Prop where
  pos : t.pos = p
  trace : t.trace = s.trace ++ acts
  answers : t.answers = s.answers.drop n
  desc : t.desc = s.desc
  prot : t.prot = s.prot
  buf : t.buf = s.buf
  part : t.part = s.part
  host : t.host = s.host

theorem Leg.trans (h : Leg s t acts n p) (h' : Leg t u acts' m q) : Leg s u (acts ++ acts') (n + m) q where
  pos := h'.pos
  trace := by rw [h'.trace, h.trace, List.append_assoc]
  answers := by rw [h'.answers, h.answers, List.drop_drop]
  desc := h'.desc.trans h.desc
  prot := h'.prot.trans h.prot
  buf := h'.buf.trans h.buf
  part := h'.part.trans h.part
  host := h'.host.trans h.host

theorem Stretch.leg (h : Stretch s t acts c n p) : Leg s t acts n p :=
  ⟨h.pos, h.trace, h.answers, h.kept.desc, h.kept.prot, h.kept.buf, h.kept.part, h.kept.host⟩

theorem Leg.undisturbed (h : Leg s t acts n p) (hu : Undisturbed s) : Undisturbed t :=
  ⟨h.host.trans hu.1, h.part.trans hu.2⟩

/-- Updates of the position, of the two register files, of the timer and of the pulse make a leg. -/
theorem Leg.update (s : State) (p : List Frame) (r : HostRegs) (w : WorkRegs) (n : Nat) (b : Bool) :
    Leg s { s with pos := p, regs := r, work := w, timer := n, progress := b } [] 0 p := by
  constructor <;> simp

/-- The command `op` is at step `n`, with nothing called. -/
def commandAt (op : Instr) (a0 a1 a2 : Word) (n : Nat) : List Frame := [⟨op, n, a0, a1, a2, 0⟩]

/-- A step of the command itself that updates the state to `x` and goes to step `m`. -/
theorem step_commandAt (x : State) (hh : s.host = []) (hp : s.pos = commandAt op a0 a1 a2 n) (hxp : x.pos = s.pos)
    (hx : s.elapse.stepNo = n → exec op s.elapse = .next (x.goto m)) :
    step s = .next { x with pos := commandAt op a0 a1 a2 m } :=
  (step_of_running hh hp).trans <| (hx (State.stepNo_of_running (s := s.elapse) hp)).trans <|
    congrArg _ (State.goto_eq (hxp.trans hp) m)

/-- The first step of a command, made by `exec` itself. -/
theorem exec_commandAt (x : State) (hp : s.pos = commandAt op a0 a1 a2 n) (hxp : x.pos = s.pos)
    (hx : s.stepNo = n → exec op s = .next (x.goto m)) :
    exec op s = .next { x with pos := commandAt op a0 a1 a2 m } :=
  (hx (State.stepNo_of_running hp)).trans <| congrArg _ (State.goto_eq (hxp.trans hp) m)

/-- The last two steps of ERASE and of WBUF: the controller reset (R124), and the completion with code 0. -/
theorem resets_and_completes (hu : Undisturbed s) (hp : s.pos = commandAt op a0 a1 a2 n)
    (hcall : ∀ x : State, x.stepNo = n → exec op x = .next (x.call .reset 0 0 0))
    (hend : ∀ x : State, x.stepNo = n + 1 → exec op x = .next (x.complete 0)) :
    ∃ k t, Runs k s t ∧ t.regs = { s.regs with rc := 0, done := true, busy := false } ∧
      t.ctrl = controlWord s.desc.rdiv .high .fastRead ∧ Leg s t (resetTrace s.desc.rdiv) 0 [] := by
  obtain ⟨u, k, v, he, hr, hfin⟩ := reset_runs (s := s.elapse.call .reset 0 0 0) hu ⟨_, rfl⟩
  have hcalls := hcall s.elapse (State.stepNo_of_running (s := s.elapse) hp)
  obtain ⟨hrun, hst⟩ := Stretch.of_step_call hu.1 hp hcalls he hr hfin
  have hlast : step v = .next (v.elapse.complete 0) := by
    rw [step_of_running (hst.undisturbed hu).1 hst.pos]
    exact hend v.elapse (State.stepNo_of_running (s := v.elapse) hst.pos)
  refine ⟨_, v.elapse.complete 0, hrun.trans (Runs.one hlast), ?_, hst.ctrl, ?_⟩
  · rw [State.complete_regs, State.elapse_regs, hst.kept.regs]
  · have hdone : Leg v (v.elapse.complete 0) [] 0 [] := Leg.update v [] (v.elapse.complete 0).regs v.work 0 false
    simpa using hst.leg.trans hdone

end Sys2Proof.Machine
end

section
/-! ERASE from its step 1 to its end (43_range_and_buffer.md R140 to R144). -/

namespace Sys2Proof.Machine

variable {s : State} {a0 a1 a2 : Word} {m : Nat} {prot : List Bool} {ps qs : List TwoPolls} {rest : List Word}

/-! ### The sectors of a range -/

theorem unprotected_one (prot : List Bool) (i : Nat) : unprotected prot i 1 = if protAt prot i then [] else [i] := by
  cases h : protAt prot i <;> simp [unprotected, h]

theorem unprotected_succ (prot : List Bool) (i m : Nat) :
    unprotected prot i (m + 1) = unprotected prot i 1 ++ unprotected prot (i + 1) m := by
  simp [unprotected, List.range'_succ, ← List.filter_append]

/-- Where the range has its flags, each of its sectors is counted as protected or listed as unprotected. -/
theorem protectedCount_add_unprotected {first last : Nat} (hle : first ≤ last) (hlast : last < prot.length) :
    protectedCount prot first last + (unprotected prot first (last + 1 - first)).length = last + 1 - first := by
  have hflags : (prot.drop first).take (last + 1 - first) =
      (List.range' first (last + 1 - first)).map (protAt prot) := by
    apply List.ext_getElem
    · simp; omega
    · intro j h1 h2
      simp only [List.length_map, List.length_range'] at h2
      have hj : first + j < prot.length := by omega
      simp [protAt, hj]
  have hsplit := List.length_eq_countP_add_countP (protAt prot) (l := List.range' first (last + 1 - first))
  rw [protectedCount, hflags, unprotected, ← List.countP_eq_length_filter]
  simpa [List.count, List.countP_map, Function.comp_def] using hsplit.symm

theorem eraseTrace_append (base : Word) (d : Descriptor) {is js : List Nat} (h : qs.length = is.length) :
    eraseTrace base d (is ++ js) (qs ++ ps) = eraseTrace base d is qs ++ eraseTrace base d js ps := by
  simp [eraseTrace, List.zip_append h.symm]

theorem allAnswers_append (ps qs : List TwoPolls) : allAnswers (ps ++ qs) = allAnswers ps ++ allAnswers qs :=
  List.flatMap_append

/-! ### The steps of ERASE -/

/-- The state after step A1. -/
def State.eraseStarted (s : State) (a0 a1 a2 : Word) : State :=
  { s with pos := commandAt .erase a0 a1 a2 2, regs.result0 := 0, regs.result1 := 0 }

theorem exec_erase_start (hp : s.pos = commandAt .erase a0 a1 a2 1) : exec .erase s = .next (s.eraseStarted a0 a1 a2) :=
  exec_commandAt { s with regs.result0 := 0, regs.result1 := 0 } hp rfl fun hn => by simp [exec, execErase, hn]

/-- Settles O35: step A2 completes with code 1 before any port action. -/
theorem eraseRejectsAnInvalidRange : Obligations.EraseRejectsAnInvalidRange := by
  unfold Obligations.EraseRejectsAnInvalidRange
  rintro s ⟨hh, -⟩ ⟨a0, a1, a2, hp⟩ hinv
  let u := s.eraseStarted a0 a1 a2
  have hbad : eraseRangeInvalid s.work.a0 s.work.a1 = true := by simpa [eraseRangeInvalid] using hinv
  have hstep : step u = .next (u.elapse.complete 1) := by
    rw [step_of_running (s := u) (f := ⟨.erase, 2, a0, a1, a2, 0⟩) hh rfl]
    simp [exec, execErase, u, State.eraseStarted, commandAt, State.stepNo, State.frame, hbad]
  exact ⟨u, 1, _, exec_erase_start hp, Runs.one hstep, rfl, rfl, rfl, rfl, rfl, rfl, rfl, rfl⟩

/-- Step A2 of a valid range of existing sectors. -/
theorem step_erase_accept (hh : s.host = []) (hp : s.pos = commandAt .erase a0 a1 a2 2)
    (hv : eraseRangeInvalid s.work.a0 s.work.a1 = false) (he : eraseRangeExists s s.work.a1 = true) :
    step s = .next { s with pos := commandAt .erase a0 a1 a2 3, timer := 0, progress := false } :=
  step_commandAt s.elapse hh hp rfl fun hn => by
    have he' : eraseRangeExists s.elapse s.work.a1 = true := he
    simp [exec, execErase, hn, hv, he']

/-- Step A3. -/
theorem step_erase_countProtected (hh : s.host = []) (hp : s.pos = commandAt .erase a0 a1 a2 3) :
    step s = .next { s with
      pos := commandAt .erase a0 a1 a2 4, timer := 0, progress := false
      regs.result0 := BitVec.ofNat 32 (protectedCount s.prot s.work.a0.toNat s.work.a1.toNat) } :=
  step_commandAt { s.elapse with
      regs.result0 := BitVec.ofNat 32 (protectedCount s.prot s.work.a0.toNat s.work.a1.toNat) } hh hp rfl fun hn => by
    simp [exec, execErase, hn]

/-- Step A4. -/
theorem step_erase_first (hh : s.host = []) (hp : s.pos = commandAt .erase a0 a1 a2 4) :
    step s = .next { s with
      pos := commandAt .erase a0 a1 a2 5, timer := 0, progress := false, work.i := s.work.a0 } :=
  step_commandAt { s.elapse with work.i := s.work.a0 } hh hp rfl fun hn => by simp [exec, execErase, hn]

/-- Step A5 of a protected sector. -/
theorem step_erase_skip (hh : s.host = []) (hp : s.pos = commandAt .erase a0 a1 a2 5)
    (hprot : protAt s.prot s.work.i.toNat = true) :
    step s = .next { s with pos := commandAt .erase a0 a1 a2 7, timer := 0, progress := false } :=
  step_commandAt s.elapse hh hp rfl fun hn => by simp [exec, execErase, hn, hprot]

/-- Step A5 after the erase of a sector. -/
theorem step_erase_countErased (hh : s.host = []) (hp : s.pos = commandAt .erase a0 a1 a2 6) :
    step s = .next { s with
      pos := commandAt .erase a0 a1 a2 7, timer := 0, progress := true, regs.result1 := s.regs.result1 + 1 } :=
  step_commandAt { s.elapse with regs.result1 := s.regs.result1 + 1, progress := true } hh hp rfl fun hn => by
    simp [exec, execErase, hn]

/-- Step A6 after the last sector. -/
theorem step_erase_last (hh : s.host = []) (hp : s.pos = commandAt .erase a0 a1 a2 7) (hi : s.work.i = s.work.a1) :
    step s = .next { s with pos := commandAt .erase a0 a1 a2 9, timer := 0, progress := false } :=
  step_commandAt s.elapse hh hp rfl fun hn => by simp [exec, execErase, hn, hi]

/-- Step A6 before the last sector. -/
theorem step_erase_more (hh : s.host = []) (hp : s.pos = commandAt .erase a0 a1 a2 7) (hi : s.work.i ≠ s.work.a1) :
    step s = .next { s with pos := commandAt .erase a0 a1 a2 8, timer := 0, progress := false } :=
  step_commandAt s.elapse hh hp rfl fun hn => by simp [exec, execErase, hn, hi]

/-- Step A7. -/
theorem step_erase_advance (hh : s.host = []) (hp : s.pos = commandAt .erase a0 a1 a2 8) :
    step s = .next { s with
      pos := commandAt .erase a0 a1 a2 5, timer := 0, progress := false, work.i := s.work.i + 1 } :=
  step_commandAt { s.elapse with work.i := s.work.i + 1 } hh hp rfl fun hn => by simp [exec, execErase, hn]

/-- Steps A2 to A4 of a valid range of existing sectors: the protected ones are counted, and `w_i` is the first. -/
theorem erase_to_sectors (hh : s.host = []) (hp : s.pos = commandAt .erase a0 a1 a2 2)
    (hv : eraseRangeInvalid s.work.a0 s.work.a1 = false) (he : eraseRangeExists s s.work.a1 = true) :
    ∃ t, Runs 3 s t ∧
      t.regs = { s.regs with
        result0 := BitVec.ofNat 32 (protectedCount s.prot s.work.a0.toNat s.work.a1.toNat) } ∧
      t.work = { s.work with i := s.work.a0 } ∧ Leg s t [] 0 (commandAt .erase a0 a1 a2 5) :=
  ⟨_, Runs.succ (step_erase_accept hh hp hv he) <| Runs.succ (step_erase_countProtected hh rfl) <|
    Runs.one (step_erase_first hh rfl), rfl, rfl, Leg.update s _ _ _ 0 false⟩

/-- Steps A6 and A7 before the last sector. -/
theorem erase_to_next (hh : s.host = []) (hp : s.pos = commandAt .erase a0 a1 a2 7) (hi : s.work.i ≠ s.work.a1) :
    ∃ t, Runs 2 s t ∧ t.regs = s.regs ∧ t.work = { s.work with i := s.work.i + 1 } ∧
      Leg s t [] 0 (commandAt .erase a0 a1 a2 5) :=
  ⟨_, Runs.succ (step_erase_more hh hp hi) <| Runs.one (step_erase_advance hh rfl), rfl, rfl,
    Leg.update s _ s.regs _ 0 false⟩

/-! ### The loop over the sectors -/

/-- Step A5 of the sector `w_i`: a protected one is skipped; any other is erased and counted (R143). -/
theorem erase_sector (hu : Undisturbed s) (hp : s.pos = commandAt .erase a0 a1 a2 5)
    (hps : ps.length = (unprotected s.prot s.work.i.toNat 1).length) (hgood : ∀ p ∈ ps, p.Good)
    (ha : s.answers = allAnswers ps ++ rest) :
    ∃ k t, Runs k s t ∧
      t.regs = { s.regs with
        result1 := s.regs.result1 + BitVec.ofNat 32 (unprotected s.prot s.work.i.toNat 1).length } ∧
      t.work.a1 = s.work.a1 ∧ t.work.i = s.work.i ∧
      Leg s t (eraseTrace s.regs.bankBase s.desc (unprotected s.prot s.work.i.toNat 1) ps) (allAnswers ps).length
        (commandAt .erase a0 a1 a2 7) := by
  rw [unprotected_one] at hps ⊢
  cases hprot : protAt s.prot s.work.i.toNat with
  | true =>
    obtain rfl : ps = [] := by simpa [hprot] using hps
    refine ⟨1, _, Runs.one (step_erase_skip hu.1 hp hprot), by simp, rfl, rfl, ?_⟩
    simpa [eraseTrace, allAnswers] using Leg.update s (commandAt .erase a0 a1 a2 7) s.regs s.work 0 false
  | false =>
    obtain ⟨p, rfl⟩ : ∃ p, ps = [p] := List.length_eq_one_iff.1 (by simpa [hprot] using hps)
    obtain ⟨hwel, hwip⟩ := hgood p (by simp)
    obtain ⟨u, k, v, he, hr, hfin⟩ := sectorEraseRuns (s.elapse.call .se (sectorOffset s.desc s.work.i) 0 0) _ _ _
      p.wel p.wip rest hu ⟨_, rfl⟩ (ha.trans (by simp [allAnswers])) hwel hwip
    obtain ⟨hrun, hst⟩ := Stretch.of_step_call hu.1 hp (by
      simp [exec, execErase, State.stepNo_of_running (s := s.elapse) hp, hprot]) he hr hfin
    have ha1 : v.work.a1 = s.work.a1 := by rw [hst.kept.work]
    have hi : v.work.i = s.work.i := by rw [hst.kept.work]
    refine ⟨_, _, hrun.trans (Runs.one (step_erase_countErased (hst.undisturbed hu).1 hst.pos)),
      by simp [hst.kept.regs], ha1, hi, ?_⟩
    simpa [eraseTrace, allAnswers, sectorOffset] using hst.leg.trans
      (Leg.update v (commandAt .erase a0 a1 a2 7) { v.regs with result1 := v.regs.result1 + 1 } v.work 0 true)

/-- Steps A5 to A7 over the sectors from `w_i` to the last, `m` after `w_i`. -/
theorem erase_sectors (hu : Undisturbed s) (hp : s.pos = commandAt .erase a0 a1 a2 5)
    (hm : s.work.i.toNat + m = s.work.a1.toNat)
    (hps : ps.length = (unprotected s.prot s.work.i.toNat (m + 1)).length) (hgood : ∀ p ∈ ps, p.Good)
    (ha : s.answers = allAnswers ps ++ rest) :
    ∃ k t, Runs k s t ∧
      t.regs = { s.regs with
        result1 := s.regs.result1 + BitVec.ofNat 32 (unprotected s.prot s.work.i.toNat (m + 1)).length } ∧
      Leg s t (eraseTrace s.regs.bankBase s.desc (unprotected s.prot s.work.i.toNat (m + 1)) ps)
        (allAnswers ps).length (commandAt .erase a0 a1 a2 9) := by
  induction m generalizing s ps with
  | zero =>
    obtain ⟨k, t, hr, hregs, ha1, hi, hleg⟩ := erase_sector hu hp hps hgood ha
    have hlast : t.work.i = t.work.a1 := by rw [hi, ha1]; exact BitVec.eq_of_toNat_eq hm
    refine ⟨_, _, hr.trans (Runs.one (step_erase_last (hleg.undisturbed hu).1 hleg.pos hlast)), hregs, ?_⟩
    simpa using hleg.trans (Leg.update t (commandAt .erase a0 a1 a2 9) t.regs t.work 0 false)
  | succ m ih =>
    have hlt : s.work.i.toNat < s.work.a1.toNat := by omega
    rw [unprotected_succ, List.length_append] at hps
    obtain ⟨qs, ps, rfl, hqs, hps⟩ : ∃ qs ps', ps = qs ++ ps' ∧
        qs.length = (unprotected s.prot s.work.i.toNat 1).length ∧
        ps'.length = (unprotected s.prot (s.work.i.toNat + 1) (m + 1)).length :=
      ⟨ps.take (unprotected s.prot s.work.i.toNat 1).length, _, (List.take_append_drop _ ps).symm, by simp [hps],
        by simp [hps]⟩
    rw [allAnswers_append, List.append_assoc] at ha
    obtain ⟨k, t, hr, hregs, ha1, hi, hleg⟩ :=
      erase_sector hu hp hqs (fun p hp => hgood p (List.mem_append_left _ hp)) ha
    have hne : t.work.i ≠ t.work.a1 := by rw [hi, ha1]; exact fun e => Nat.ne_of_lt hlt (congrArg _ e)
    have hut := hleg.undisturbed hu
    obtain ⟨v, hrv, hvregs, hvwork, hlegv⟩ := erase_to_next hut.1 hleg.pos hne
    have hlv := hleg.trans hlegv
    have hvi : v.work.i.toNat = s.work.i.toNat + 1 := by
      have := s.work.a1.isLt
      simp only [hvwork, hi, BitVec.toNat_add, BitVec.ofNat_eq_ofNat, BitVec.toNat_ofNat]
      omega
    have hva : v.work.a1 = s.work.a1 := by rw [hvwork]; exact ha1
    obtain ⟨k', w, hr', hregs', hleg'⟩ := ih (s := v) (ps := ps) (hlegv.undisturbed hut) hlv.pos
      (by rw [hvi, hva]; omega) (by rwa [hvi, hlv.prot]) (fun p hp => hgood p (List.mem_append_right _ hp))
      (by simp [hlv.answers, ha])
    rw [hvi, hlv.prot, hvregs, hregs] at hregs' hleg'
    refine ⟨_, w, (hr.trans hrv).trans hr', ?_, ?_⟩
    · rw [hregs', unprotected_succ _ _ (m + 1), List.length_append, BitVec.ofNat_add, BitVec.add_assoc]
    · rw [unprotected_succ _ _ (m + 1), eraseTrace_append _ _ hqs, allAnswers_append, List.length_append]
      simpa [hlv.desc] using hlv.trans hleg'

/-- ERASE of a valid range of existing sectors (R140), whether the part or the flags alone bound it. -/
theorem erase_runs (hu : Undisturbed s) (hp : s.pos = commandAt .erase a0 a1 a2 1) (h0 : 0 ≤ s.work.a0.toInt)
    (hle : s.work.a0.toInt ≤ s.work.a1.toInt) (he : eraseRangeExists s s.work.a1 = true) {sectors : List Nat}
    (hsec : sectors = unprotected s.prot s.work.a0.toNat (s.work.a1.toNat + 1 - s.work.a0.toNat))
    (hps : ps.length = sectors.length) (hgood : ∀ p ∈ ps, p.Good) (ha : s.answers = allAnswers ps ++ rest) :
    ∃ u k t, exec .erase s = .next u ∧ Runs k u t ∧
      t.regs = { s.regs with
        rc := 0, done := true, busy := false
        result0 := BitVec.ofNat 32 (s.work.a1.toNat + 1 - s.work.a0.toNat - sectors.length)
        result1 := BitVec.ofNat 32 sectors.length } ∧
      t.ctrl = controlWord s.desc.rdiv .high .fastRead ∧
      Leg s t (eraseTrace s.regs.bankBase s.desc sectors ps ++ resetTrace s.desc.rdiv) (allAnswers ps).length [] := by
  have hle' : s.work.a0.toNat ≤ s.work.a1.toNat := by
    simp only [BitVec.toInt_eq_toNat_cond] at h0 hle
    omega
  have hlast : s.work.a1.toNat < s.prot.length := by simp_all [eraseRangeExists]
  have hcount := protectedCount_add_unprotected hle' hlast
  obtain ⟨m, hm⟩ := Nat.exists_eq_add_of_le hle'
  have hlen : s.work.a1.toNat + 1 - s.work.a0.toNat = m + 1 := by omega
  rw [hlen] at hsec hcount ⊢
  let u := s.eraseStarted a0 a1 a2
  obtain ⟨v, hrv, hvregs, hvwork, hlegv⟩ :=
    erase_to_sectors (s := u) hu.1 rfl (eraseRangeInvalid_eq_false.2 ⟨h0, hle⟩) he
  have huv : Undisturbed v := hlegv.undisturbed (s := u) hu
  have hvi : v.work.i.toNat = s.work.a0.toNat := by rw [hvwork]; rfl
  have hsecv : sectors = unprotected v.prot v.work.i.toNat (m + 1) := by rw [hvi, hlegv.prot]; exact hsec
  obtain ⟨k, x, hrx, hxregs, hlegx⟩ := erase_sectors (m := m) (rest := rest) huv hlegv.pos
    (by rw [hvwork]; exact hm.symm) (hsecv ▸ hps) hgood (hlegv.answers.trans ha)
  rw [← hsecv] at hxregs hlegx
  obtain ⟨k', t, hrt, htregs, hctrl, hlegt⟩ := resets_and_completes (hlegx.undisturbed huv) hlegx.pos
    (fun x hn => by simp [exec, execErase, hn]) (fun x hn => by simp [exec, execErase, hn])
  have hlegu : Leg s u [] 0 (commandAt .erase a0 a1 a2 2) := Leg.update s _ u.regs s.work s.timer s.progress
  have hleg := ((hlegu.trans hlegv).trans hlegx).trans hlegt
  refine ⟨u, _, t, exec_erase_start hp, (hrv.trans hrx).trans hrt, ?_, hctrl.trans ?_, ?_⟩
  · rw [htregs, hxregs, hvregs, ← hcount, hsec, Nat.add_sub_cancel]
    simp [u, State.eraseStarted]
  · rw [hlegx.desc, (hlegu.trans hlegv).desc]
  · have hbase : v.regs.bankBase = s.regs.bankBase := by rw [hvregs]; rfl
    simpa [hlegx.desc, (hlegu.trans hlegv).desc, hbase] using hleg

/-- Settles O36: the part has the sectors of the range. -/
theorem eraseRunsOverItsRange : Obligations.EraseRunsOverItsRange := by
  unfold Obligations.EraseRunsOverItsRange
  rintro s ps rest hu ⟨a0, a1, a2, hp⟩ h0 hle hflag hpart first m sectors hps hgood ha
  obtain ⟨u, k, t, he, hr, hregs, hctrl, hleg⟩ :=
    erase_runs hu hp h0 hle (by simp [eraseRangeExists, hflag, hpart]) rfl hps hgood ha
  exact ⟨u, k, t, he, hr, hleg.pos, hregs, hctrl, by simp [hleg.answers, ha], hleg.desc, hleg.prot, hleg.buf,
    hleg.trace⟩

end Sys2Proof.Machine
end

section
/-! WBUF from its step 1 to its end (43_range_and_buffer.md R145, R146). -/

namespace Sys2Proof.Machine

variable {s : State} {a0 a1 a2 off src cnt : Word} {fuel : Nat} {p : TwoPolls} {ps : List TwoPolls} {rest : List Word}

/-! ### The steps of WBUF -/

/-- The state after step B1. -/
def State.wbufStarted (s : State) (a0 a1 a2 : Word) : State :=
  { s with
    pos := commandAt .wbuf a0 a1 a2 2
    work := { s.work with src := s.work.a0, off := s.work.a1 - s.regs.bankBase, cnt := s.work.a2 } }

theorem exec_wbuf_start (hp : s.pos = commandAt .wbuf a0 a1 a2 1) : exec .wbuf s = .next (s.wbufStarted a0 a1 a2) :=
  exec_commandAt { s with
    work := { s.work with src := s.work.a0, off := s.work.a1 - s.regs.bankBase, cnt := s.work.a2 } } hp rfl fun hn => by
    simp [exec, execWbuf, hn]

/-- Step B2 with nothing left. -/
theorem step_wbuf_last (hh : s.host = []) (hp : s.pos = commandAt .wbuf a0 a1 a2 2) (hc : s.work.cnt = 0) :
    step s = .next { s with pos := commandAt .wbuf a0 a1 a2 6, timer := 0, progress := false } :=
  step_commandAt s.elapse hh hp rfl fun hn => by simp [exec, execWbuf, hn, hc]

/-- Step B2 with bytes left. -/
theorem step_wbuf_more (hh : s.host = []) (hp : s.pos = commandAt .wbuf a0 a1 a2 2) (hc : s.work.cnt ≠ 0) :
    step s = .next { s with pos := commandAt .wbuf a0 a1 a2 3, timer := 0, progress := false } :=
  step_commandAt s.elapse hh hp rfl fun hn => by
    simp only [exec, execWbuf, hn]
    exact if_neg hc

/-- Step B3. -/
theorem step_wbuf_chunk (hh : s.host = []) (hp : s.pos = commandAt .wbuf a0 a1 a2 3) :
    step s = .next { s with
      pos := commandAt .wbuf a0 a1 a2 4, timer := 0, progress := false
      work.n := chunkLength s.work.off s.work.cnt } :=
  step_commandAt { s.elapse with work.n := chunkLength s.work.off s.work.cnt } hh hp rfl fun hn => by
    simp [exec, execWbuf, hn]

/-- Step B5. -/
theorem step_wbuf_advance (hh : s.host = []) (hp : s.pos = commandAt .wbuf a0 a1 a2 5) :
    step s = .next { s with
      pos := commandAt .wbuf a0 a1 a2 2, timer := 0, progress := false
      work := { s.work with
        src := s.work.src + s.work.n, off := s.work.off + s.work.n, cnt := s.work.cnt - s.work.n } } :=
  step_commandAt { s.elapse with
      work := { s.work with
        src := s.work.src + s.work.n, off := s.work.off + s.work.n, cnt := s.work.cnt - s.work.n } } hh hp rfl
    fun hn => by simp [exec, execWbuf, hn]

/-! ### The loop over the chunks -/

theorem chunks_nothing (fuel : Nat) (off src : Word) : chunks fuel off src 0 = [] := by cases fuel <;> rfl

theorem chunks_succ (hcnt : cnt ≠ 0) : chunks (fuel + 1) off src cnt =
    (off, src, chunkLength off cnt) ::
      chunks fuel (off + chunkLength off cnt) (src + chunkLength off cnt) (cnt - chunkLength off cnt) := by
  rw [chunks, if_neg hcnt]
  rfl

/-- Steps B2 to B5 of one chunk (R146). -/
theorem wbuf_chunk (hu : Undisturbed s) (hp : s.pos = commandAt .wbuf a0 a1 a2 2) (hc : s.work.cnt ≠ 0)
    {n : Word} (hn : n = chunkLength s.work.off s.work.cnt) (hgood : p.Good) (ha : s.answers = p.wel ++ p.wip ++ rest) :
    ∃ k t, Runs k s t ∧ t.regs = s.regs ∧ t.work.off = s.work.off + n ∧ t.work.src = s.work.src + n ∧
      t.work.cnt = s.work.cnt - n ∧
      Leg s t (ppTrace s.regs.bankBase s.desc.wdiv s.buf s.work.off s.work.src n p.wel p.wip)
        (p.wel.length + p.wip.length) (commandAt .wbuf a0 a1 a2 2) := by
  subst hn
  let n := chunkLength s.work.off s.work.cnt
  let v : State := { s with pos := commandAt .wbuf a0 a1 a2 4, timer := 0, progress := false, work.n := n }
  have hrv : Runs 2 s v := Runs.succ (step_wbuf_more hu.1 hp hc) <| Runs.one (step_wbuf_chunk hu.1 rfl)
  obtain ⟨hwel, hwip⟩ := hgood
  obtain ⟨u, k, x, he, hr, hfin⟩ := pageProgramRuns (v.elapse.call .pp s.work.off s.work.src n) _ _ _
    p.wel p.wip rest hu ⟨_, rfl⟩ ha hwel hwip
  have hcall : exec .wbuf v.elapse = .next (v.elapse.call .pp s.work.off s.work.src n) := by
    simp [exec, execWbuf, State.stepNo_of_running (s := v.elapse) rfl, v]
  obtain ⟨hrx, hst⟩ := Stretch.of_step_call (s := v) hu.1 rfl hcall he hr hfin
  have hwork := hst.kept.work
  refine ⟨_, _, (hrv.trans hrx).trans (Runs.one (step_wbuf_advance (hst.undisturbed hu).1 hst.pos)), hst.kept.regs,
    ?_, ?_, ?_, ?_⟩
  · rw [hwork]
  · rw [hwork]
  · rw [hwork]
  · have hlegv : Leg s v [] 0 (commandAt .wbuf a0 a1 a2 4) := Leg.update s _ s.regs v.work 0 false
    simpa using (hlegv.trans hst.leg).trans (Leg.update x (commandAt .wbuf a0 a1 a2 2) x.regs _ 0 false)

/-- Step B2 when no chunk is left. -/
theorem wbuf_nothing_left (hh : s.host = []) (hp : s.pos = commandAt .wbuf a0 a1 a2 2) (hc : s.work.cnt = 0)
    (hps : ps.length = (chunks fuel s.work.off s.work.src s.work.cnt).length) :
    ∃ k t, Runs k s t ∧ t.regs = s.regs ∧
      Leg s t (wbufTrace s.regs.bankBase s.desc.wdiv s.buf (chunks fuel s.work.off s.work.src s.work.cnt) ps)
        (allAnswers ps).length (commandAt .wbuf a0 a1 a2 6) := by
  rw [hc, chunks_nothing] at hps ⊢
  obtain rfl : ps = [] := List.length_eq_zero_iff.1 hps
  exact ⟨1, _, Runs.one (step_wbuf_last hh hp hc), rfl, by
    simpa [wbufTrace, allAnswers] using Leg.update s (commandAt .wbuf a0 a1 a2 6) s.regs s.work 0 false⟩

/-- Steps B2 to B5 over the chunks of what is left: each chunk takes at least one byte of it. -/
theorem wbuf_chunks (hu : Undisturbed s) (hp : s.pos = commandAt .wbuf a0 a1 a2 2) (hfuel : s.work.cnt.toNat ≤ fuel)
    (hps : ps.length = (chunks fuel s.work.off s.work.src s.work.cnt).length) (hgood : ∀ p ∈ ps, p.Good)
    (ha : s.answers = allAnswers ps ++ rest) :
    ∃ k t, Runs k s t ∧ t.regs = s.regs ∧
      Leg s t (wbufTrace s.regs.bankBase s.desc.wdiv s.buf (chunks fuel s.work.off s.work.src s.work.cnt) ps)
        (allAnswers ps).length (commandAt .wbuf a0 a1 a2 6) := by
  induction fuel generalizing s ps with
  | zero =>
    have hc : s.work.cnt = 0 := BitVec.eq_of_toNat_eq (Nat.le_zero.1 hfuel)
    exact wbuf_nothing_left hu.1 hp hc hps
  | succ fuel ih =>
    by_cases hc : s.work.cnt = 0
    · exact wbuf_nothing_left hu.1 hp hc hps
    · rw [chunks_succ hc] at hps ⊢
      obtain ⟨p, ps, rfl⟩ := List.exists_cons_of_length_eq_add_one hps
      obtain ⟨k, t, hr, hregs, hoff, hsrc, hcnt, hleg⟩ := wbuf_chunk hu hp hc rfl (hgood p (by simp))
        (rest := allAnswers ps ++ rest) (by simp [ha, allAnswers])
      obtain ⟨hpos, -, hle, -⟩ := chunkStaysInItsPage s.work.off s.work.cnt hc
      have hless : t.work.cnt.toNat ≤ fuel := by
        rw [hcnt, BitVec.toNat_sub_of_le (BitVec.le_def.2 hle)]
        omega
      obtain ⟨k', w, hr', hregs', hleg'⟩ := ih (s := t) (ps := ps) (hleg.undisturbed hu) hleg.pos hless
        (by rw [hoff, hsrc, hcnt]; simpa using hps) (fun q hq => hgood q (by simp [hq]))
        (by rw [hleg.answers, ha]; simp [allAnswers])
      refine ⟨_, w, hr.trans hr', hregs'.trans hregs, ?_⟩
      simpa [wbufTrace, allAnswers, hregs, hoff, hsrc, hcnt, hleg.desc, hleg.buf, Nat.add_assoc] using hleg.trans hleg'

/-- Settles O39: the chunks of R146 from step B2 on, then the controller reset. -/
theorem bufferedWriteRuns : Obligations.BufferedWriteRuns := by
  unfold Obligations.BufferedWriteRuns
  rintro s ps rest hu ⟨a0, a1, a2, hp⟩ cs hps hgood ha
  let u := s.wbufStarted a0 a1 a2
  have hlegu : Leg s u [] 0 (commandAt .wbuf a0 a1 a2 2) := Leg.update s _ s.regs u.work s.timer s.progress
  obtain ⟨k, x, hrx, hxregs, hlegx⟩ := wbuf_chunks (s := u) hu rfl (Nat.le_refl _) hps hgood ha
  obtain ⟨k', t, hrt, htregs, hctrl, hlegt⟩ := resets_and_completes (hlegx.undisturbed (s := u) hu) hlegx.pos
    (fun x hn => by simp [exec, execWbuf, hn]) (fun x hn => by simp [exec, execWbuf, hn])
  have hlegux := hlegu.trans hlegx
  have hleg := hlegux.trans hlegt
  refine ⟨u, _, t, exec_wbuf_start hp, hrx.trans hrt, hleg.pos, by rw [htregs, hxregs]; rfl,
    by rw [hctrl, hlegux.desc], by simp [hleg.answers, ha], hleg.desc, hleg.prot, hleg.buf, ?_⟩
  rw [hleg.trace, hlegux.desc]
  rfl

end Sys2Proof.Machine
end

section
/-! Consecutive stores to the buffer (43_range_and_buffer.md R147), addresses modulo 2^32. -/

namespace Sys2Proof.Machine

variable {m : Memory} {dst : Word} {bs : List Byte} {a k : Nat}

/-- The buffer after the bytes have been stored one after the other from `dst` on. -/
def storeBytes : Memory → Word → List Byte → Memory
  | m, _, [] => m
  | m, dst, b :: bs => storeBytes (Memory.write m dst.toNat b) (dst + 1) bs

theorem add_ofNat_succ (dst : Word) (k : Nat) :
    dst + BitVec.ofNat 32 (k + 1) = dst + 1#32 + BitVec.ofNat 32 k := by
  rw [BitVec.ofNat_add, BitVec.add_comm (BitVec.ofNat 32 k), BitVec.add_assoc]

theorem storeBytes_append (m : Memory) (dst : Word) (bs cs : List Byte) :
    storeBytes m dst (bs ++ cs) = storeBytes (storeBytes m dst bs) (dst + BitVec.ofNat 32 bs.length) cs := by
  induction bs generalizing m dst with
  | nil => simp [storeBytes]
  | cons b bs ih => rw [List.cons_append, storeBytes, storeBytes, ih, List.length_cons, add_ofNat_succ]; rfl

theorem bufAddr_zero (dst : Word) : bufAddr dst 0 = dst.toNat := by simp [bufAddr]

theorem bufAddr_succ (dst : Word) (k : Nat) : bufAddr dst (k + 1) = bufAddr (dst + 1) k :=
  congrArg BitVec.toNat (add_ofNat_succ dst k)

/-- Fewer than 2^32 further bytes do not come back to the first. -/
theorem bufAddr_succ_ne (dst : Word) (hk : k + 1 < 2 ^ 32) : bufAddr (dst + 1) k ≠ dst.toNat := by
  rw [← bufAddr_succ, bufAddr, BitVec.toNat_add, BitVec.toNat_ofNat]
  have := dst.isLt
  omega

/-- The stores leave every other byte. -/
theorem read_storeBytes_other (h : ∀ k < bs.length, a ≠ bufAddr dst k) :
    Memory.read (storeBytes m dst bs) a = Memory.read m a := by
  induction bs generalizing m dst with
  | nil => rfl
  | cons b bs ih =>
    have h0 : a ≠ dst.toNat := bufAddr_zero dst ▸ h 0 (Nat.succ_pos _)
    rw [storeBytes, ih fun k hk => bufAddr_succ dst k ▸ h (k + 1) (Nat.succ_lt_succ hk),
      Memory.read_write_other _ _ _ _ h0]

/-- Each byte stored reads back. -/
theorem read_storeBytes_at (hm : Memory.wf m = true) (hlen : bs.length ≤ 2 ^ 32) (hk : k < bs.length) :
    Memory.read (storeBytes m dst bs) (bufAddr dst k) = bs.getD k 0 := by
  induction bs generalizing m dst k with
  | nil => cases hk
  | cons b bs ih =>
    rw [List.length_cons] at hlen hk
    cases k with
    | zero =>
      rw [storeBytes, bufAddr_zero,
        read_storeBytes_other fun j hj => (bufAddr_succ_ne dst (by omega)).symm, Memory.read_write_same _ _ _ hm]
      rfl
    | succ k =>
      rw [storeBytes, bufAddr_succ, ih (Memory.wf_write _ _ hm) (by omega) (by omega)]
      rfl

end Sys2Proof.Machine
end

section
/-! RBUF from its step 1 to its end (43_range_and_buffer.md R147), whatever the window gives. -/

namespace Sys2Proof.Machine

variable {s t u : State} {a0 a1 a2 : Word} {acts acts' : List PortAction} {bytes bytes' : List Byte}
  {p q : List Frame} {ws bs : List Word}

/-! ### The steps of RBUF -/

/-- A read of the window does not see the position, the timer or the pulse. -/
theorem State.afterWindow_moved (s : State) (p : List Frame) (m : Nat) (b : Bool) (a : Word) (n : Nat) :
    { s with pos := p, timer := m, progress := b }.afterWindow a n =
      { s.afterWindow a n with pos := p, timer := m, progress := b } := by
  have hbytes : { s with pos := p, timer := m, progress := b }.windowBytes a n = s.windowBytes a n := rfl
  unfold State.afterWindow
  rw [hbytes]
  split
  · rfl
  · simp only [State.clockPart]
    split <;> rfl

/-- The state after step C1. -/
def State.rbufStarted (s : State) (a0 a1 a2 : Word) : State :=
  { s with
    pos := commandAt .rbuf a0 a1 a2 2
    work := { s.work with dst := s.work.a0, src := s.work.a1, cnt := s.work.a2 } }

theorem exec_rbuf_start (hp : s.pos = commandAt .rbuf a0 a1 a2 1) : exec .rbuf s = .next (s.rbufStarted a0 a1 a2) :=
  exec_commandAt { s with work := { s.work with dst := s.work.a0, src := s.work.a1, cnt := s.work.a2 } } hp rfl
    fun hn => by simp [exec, execRbuf, hn]

/-- Step C2 with a word left. -/
theorem step_rbuf_more (hh : s.host = []) (hp : s.pos = commandAt .rbuf a0 a1 a2 2) (hc : 4 ≤ s.work.cnt.toNat) :
    step s = .next { s with pos := commandAt .rbuf a0 a1 a2 3, timer := 0, progress := false } :=
  step_commandAt s.elapse hh hp rfl fun hn => by simp [exec, execRbuf, hn, Nat.not_lt.2 hc]

/-- Step C2 with no word left. -/
theorem step_rbuf_wordsDone (hh : s.host = []) (hp : s.pos = commandAt .rbuf a0 a1 a2 2) (hc : s.work.cnt.toNat < 4) :
    step s = .next { s with pos := commandAt .rbuf a0 a1 a2 9, timer := 0, progress := false } :=
  step_commandAt s.elapse hh hp rfl fun hn => by simp [exec, execRbuf, hn, hc]

/-- The state after the load of step C3. -/
def State.wordLoaded (s : State) (a0 a1 a2 : Word) : State :=
  { s.afterWindow s.work.src 4 with
    pos := commandAt .rbuf a0 a1 a2 4, timer := 0, progress := false
    work := { s.work with word := s.windowWord s.work.src }
    trace := s.trace ++ [.winRead32 s.work.src (s.windowWord s.work.src)] }

/-- The load of step C3. -/
theorem step_rbuf_loadWord (hh : s.host = []) (hp : s.pos = commandAt .rbuf a0 a1 a2 3) :
    step s = .next (s.wordLoaded a0 a1 a2) := by
  rw [step_commandAt (m := 4) (s.elapse.winRead32 s.work.src) hh hp (by simp) fun hn => by simp [exec, execRbuf, hn]]
  have hread : s.elapse.afterWindow s.work.src 4 =
      { s.afterWindow s.work.src 4 with pos := s.pos, timer := 0, progress := false } :=
    s.afterWindow_moved s.pos 0 false s.work.src 4
  simp only [State.winRead32, hread, State.emit, State.afterWindow_trace, State.afterWindow_work]
  rfl

/-- The store of byte `j` of step C3. -/
theorem step_rbuf_storeByte {j : Nat} (hj : j < 4) (hh : s.host = []) (hp : s.pos = commandAt .rbuf a0 a1 a2 (4 + j)) :
    step s = .next { s with
      pos := commandAt .rbuf a0 a1 a2 (5 + j), timer := 0, progress := false
      buf := Memory.write s.buf (s.work.dst + BitVec.ofNat 32 j).toNat (wordByte s.work.word j)
      trace := s.trace ++ [.bufWrite8 (s.work.dst + BitVec.ofNat 32 j) (wordByte s.work.word j)] } :=
  step_commandAt (s.elapse.bufWrite8 (s.work.dst + BitVec.ofNat 32 j) (wordByte s.work.word j)) hh hp rfl fun hn => by
    obtain rfl | rfl | rfl | rfl : j = 0 ∨ j = 1 ∨ j = 2 ∨ j = 3 := by omega
    all_goals simp [exec, execRbuf, hn]

/-- Step C4. -/
theorem step_rbuf_nextWord (hh : s.host = []) (hp : s.pos = commandAt .rbuf a0 a1 a2 8) :
    step s = .next { s with
      pos := commandAt .rbuf a0 a1 a2 2, timer := 0, progress := false
      work := { s.work with src := s.work.src + 4, dst := s.work.dst + 4, cnt := s.work.cnt - 4 } } :=
  step_commandAt { s.elapse with
      work := { s.work with src := s.work.src + 4, dst := s.work.dst + 4, cnt := s.work.cnt - 4 } } hh hp rfl
    fun hn => by simp [exec, execRbuf, hn]

/-- Step C5 with a byte left. -/
theorem step_rbuf_moreBytes (hh : s.host = []) (hp : s.pos = commandAt .rbuf a0 a1 a2 9) (hc : s.work.cnt ≠ 0) :
    step s = .next { s with pos := commandAt .rbuf a0 a1 a2 10, timer := 0, progress := false } :=
  step_commandAt s.elapse hh hp rfl fun hn => by
    simp only [exec, execRbuf, hn]
    exact if_neg hc

/-- Step C5 with nothing left. -/
theorem step_rbuf_done (hh : s.host = []) (hp : s.pos = commandAt .rbuf a0 a1 a2 9) (hc : s.work.cnt = 0) :
    step s = .next { s with pos := commandAt .rbuf a0 a1 a2 13, timer := 0, progress := false } :=
  step_commandAt s.elapse hh hp rfl fun hn => by simp [exec, execRbuf, hn, hc]

/-- The state after the load of step C6. -/
def State.byteLoaded (s : State) (a0 a1 a2 : Word) : State :=
  { s.afterWindow s.work.src 1 with
    pos := commandAt .rbuf a0 a1 a2 11, timer := 0, progress := false
    work := { s.work with b := s.windowByte s.work.src }
    trace := s.trace ++ [.winRead8 s.work.src (s.windowByte s.work.src)] }

/-- The load of step C6. -/
theorem step_rbuf_loadByte (hh : s.host = []) (hp : s.pos = commandAt .rbuf a0 a1 a2 10) :
    step s = .next (s.byteLoaded a0 a1 a2) := by
  rw [step_commandAt (m := 11) (s.elapse.winRead8 s.work.src) hh hp (by simp) fun hn => by simp [exec, execRbuf, hn]]
  have hread : s.elapse.afterWindow s.work.src 1 =
      { s.afterWindow s.work.src 1 with pos := s.pos, timer := 0, progress := false } :=
    s.afterWindow_moved s.pos 0 false s.work.src 1
  simp only [State.winRead8, hread, State.emit, State.afterWindow_trace, State.afterWindow_work]
  rfl

/-- The store of step C6. -/
theorem step_rbuf_storeLast (hh : s.host = []) (hp : s.pos = commandAt .rbuf a0 a1 a2 11) :
    step s = .next { s with
      pos := commandAt .rbuf a0 a1 a2 12, timer := 0, progress := false
      buf := Memory.write s.buf s.work.dst.toNat s.work.b, trace := s.trace ++ [.bufWrite8 s.work.dst s.work.b] } :=
  step_commandAt (s.elapse.bufWrite8 s.work.dst s.work.b) hh hp rfl fun hn => by simp [exec, execRbuf, hn]

/-- Step C7. -/
theorem step_rbuf_nextByte (hh : s.host = []) (hp : s.pos = commandAt .rbuf a0 a1 a2 12) :
    step s = .next { s with
      pos := commandAt .rbuf a0 a1 a2 9, timer := 0, progress := false
      work := { s.work with src := s.work.src + 1, dst := s.work.dst + 1, cnt := s.work.cnt - 1 } } :=
  step_commandAt { s.elapse with
      work := { s.work with src := s.work.src + 1, dst := s.work.dst + 1, cnt := s.work.cnt - 1 } } hh hp rfl
    fun hn => by simp [exec, execRbuf, hn]

/-- Step C8. -/
theorem step_rbuf_complete (hh : s.host = []) (hp : s.pos = commandAt .rbuf a0 a1 a2 13) :
    step s = .next (s.elapse.complete 0) := by
  rw [step_of_running hh hp]
  simp [exec, execRbuf, State.stepNo_of_running (s := s.elapse) hp]

/-! ### One load and its stores -/

/-- What a read of the flash window depends on, where it is not a draw of no listed answer. -/
structure WindowView where
  part : Option RefPart
  ctrl : Word
  bankBase : Word
  answers : List Word
  src : Word

def State.windowView (s : State) : WindowView := ⟨s.part, s.ctrl, s.regs.bankBase, s.answers, s.work.src⟩

/-- The view after a read of `n` bytes at `w_src`, which `w_src` then passes. -/
def State.viewAfterRead (s : State) (n : Nat) : WindowView :=
  { (s.afterWindow s.work.src n).windowView with src := s.work.src + BitVec.ofNat 32 n }

/-- A stretch of RBUF: the port actions `acts` were made, and `bytes` stored from `w_dst` on. -/
structure Loaded (s t : State) (acts : List PortAction) (bytes : List Byte) (p : List Frame) : Prop where
  pos : t.pos = p
  trace : t.trace = s.trace ++ acts
  buf : t.buf = storeBytes s.buf s.work.dst bytes
  src : t.work.src = s.work.src + BitVec.ofNat 32 bytes.length
  dst : t.work.dst = s.work.dst + BitVec.ofNat 32 bytes.length
  cnt : t.work.cnt = s.work.cnt - BitVec.ofNat 32 bytes.length
  regs : t.regs = s.regs
  ctrl : t.ctrl = s.ctrl
  desc : t.desc = s.desc
  prot : t.prot = s.prot
  host : t.host = s.host

theorem Loaded.trans (h : Loaded s t acts bytes p) (h' : Loaded t u acts' bytes' q) :
    Loaded s u (acts ++ acts') (bytes ++ bytes') q where
  pos := h'.pos
  trace := by rw [h'.trace, h.trace, List.append_assoc]
  buf := by rw [h'.buf, h.buf, h.dst, storeBytes_append]
  src := by rw [h'.src, h.src, List.length_append, BitVec.ofNat_add, BitVec.add_assoc]
  dst := by rw [h'.dst, h.dst, List.length_append, BitVec.ofNat_add, BitVec.add_assoc]
  cnt := by rw [h'.cnt, h.cnt, List.length_append, BitVec.ofNat_add, BitVec.sub_sub]
  regs := h'.regs.trans h.regs
  ctrl := h'.ctrl.trans h.ctrl
  desc := h'.desc.trans h.desc
  prot := h'.prot.trans h.prot
  host := h'.host.trans h.host

/-- The position moves on. -/
theorem Loaded.moved (s : State) (p : List Frame) :
    Loaded s { s with pos := p, timer := 0, progress := false } [] [] p := by
  constructor <;> simp [storeBytes]

/-- The four stores of a word, low byte first (R43). -/
theorem rbuf_storeWord (hh : s.host = []) (hp : s.pos = commandAt .rbuf a0 a1 a2 4) :
    Runs 4 s { s with
      pos := commandAt .rbuf a0 a1 a2 8, timer := 0, progress := false
      buf := storeBytes s.buf s.work.dst (bytesOf [s.work.word])
      trace := s.trace ++ (rbufWords s.work.src s.work.dst [s.work.word]).tail } := by
  have hrun := Runs.succ (step_rbuf_storeByte (j := 0) (by decide) hh hp) <|
    Runs.succ (step_rbuf_storeByte (j := 1) (by decide) hh rfl) <|
    Runs.succ (step_rbuf_storeByte (j := 2) (by decide) hh rfl) <|
    Runs.one (step_rbuf_storeByte (j := 3) (by decide) hh rfl)
  simpa [storeBytes, bytesOf, rbufWords, wordByte, BitVec.add_assoc] using hrun

/-- Steps C2 and C3 up to the stores. -/
theorem rbuf_loadWord (hh : s.host = []) (hp : s.pos = commandAt .rbuf a0 a1 a2 2) (hc : 4 ≤ s.work.cnt.toNat) :
    Runs 2 s (s.wordLoaded a0 a1 a2) := by
  refine Runs.succ (step_rbuf_more hh hp hc) (Runs.one ((step_rbuf_loadWord
    (s := { s with pos := commandAt .rbuf a0 a1 a2 3, timer := 0, progress := false }) hh rfl).trans ?_))
  rw [State.wordLoaded, State.afterWindow_moved]
  rfl

/-- Steps C5 and C6 up to the store. -/
theorem rbuf_loadByte (hh : s.host = []) (hp : s.pos = commandAt .rbuf a0 a1 a2 9) (hc : s.work.cnt ≠ 0) :
    Runs 2 s (s.byteLoaded a0 a1 a2) := by
  refine Runs.succ (step_rbuf_moreBytes hh hp hc) (Runs.one ((step_rbuf_loadByte
    (s := { s with pos := commandAt .rbuf a0 a1 a2 10, timer := 0, progress := false }) hh rfl).trans ?_))
  rw [State.byteLoaded, State.afterWindow_moved]
  rfl

/-- Steps C2 to C4 of one word: its load and its four stores. -/
theorem rbuf_word (hh : s.host = []) (hp : s.pos = commandAt .rbuf a0 a1 a2 2) (hc : 4 ≤ s.work.cnt.toNat) :
    ∃ t, Runs 7 s t ∧ t.windowView = s.viewAfterRead 4 ∧
      Loaded s t (rbufWords s.work.src s.work.dst [s.windowWord s.work.src]) (bytesOf [s.windowWord s.work.src])
        (commandAt .rbuf a0 a1 a2 2) := by
  have hh' : (s.wordLoaded a0 a1 a2).host = [] := by simpa [State.wordLoaded] using hh
  refine ⟨_, ((rbuf_loadWord hh hp hc).trans (rbuf_storeWord hh' rfl)).trans (Runs.one (step_rbuf_nextWord hh' rfl)),
    rfl, ?_⟩
  constructor <;> simp [State.wordLoaded, bytesOf, rbufWords]

/-- Steps C5 to C7 of one byte. -/
theorem rbuf_byte (hh : s.host = []) (hp : s.pos = commandAt .rbuf a0 a1 a2 9) (hc : s.work.cnt ≠ 0) {w : Word}
    (hw : s.windowByte s.work.src = answerByte w) :
    ∃ t, Runs 4 s t ∧ t.windowView = s.viewAfterRead 1 ∧
      Loaded s t (rbufBytes s.work.src s.work.dst [w]) [answerByte w] (commandAt .rbuf a0 a1 a2 9) := by
  have hh' : (s.byteLoaded a0 a1 a2).host = [] := by simpa [State.byteLoaded] using hh
  refine ⟨_, ((rbuf_loadByte hh hp hc).trans (Runs.one (step_rbuf_storeLast hh' rfl))).trans
    (Runs.one (step_rbuf_nextByte hh' rfl)), rfl, ?_⟩
  constructor <;> simp [State.byteLoaded, rbufBytes, storeBytes, hw]

/-! ### The loops -/

/-- `P` holds of what a read depends on and of the words, and after them the bytes, that the reads to come give; each
read leaves it so for the rest. -/
structure Feeds (P : WindowView → List Word → List Word → Prop) : Prop where
  word : ∀ {s : State} {w : Word} {ws bs : List Word}, P s.windowView (w :: ws) bs →
    s.windowWord s.work.src = w ∧ P (s.viewAfterRead 4) ws bs
  byte : ∀ {s : State} {b : Word} {bs : List Word}, P s.windowView [] (b :: bs) →
    s.windowByte s.work.src = answerByte b ∧ P (s.viewAfterRead 1) [] bs

variable {P : WindowView → List Word → List Word → Prop}

theorem bytesOf_cons (w : Word) (ws : List Word) : bytesOf (w :: ws) = bytesOf [w] ++ bytesOf ws := by simp [bytesOf]

theorem bytesOf_length (ws : List Word) : (bytesOf ws).length = 4 * ws.length := by
  induction ws with
  | nil => rfl
  | cons w ws ih =>
    rw [bytesOf_cons, List.length_append, ih, List.length_cons, Nat.mul_succ, Nat.add_comm]
    rfl

theorem rbufWords_cons (src dst w : Word) (ws : List Word) :
    rbufWords src dst (w :: ws) = rbufWords src dst [w] ++ rbufWords (src + 4) (dst + 4) ws := by simp [rbufWords]

theorem rbufBytes_cons (src dst w : Word) (ws : List Word) :
    rbufBytes src dst (w :: ws) = rbufBytes src dst [w] ++ rbufBytes (src + 1) (dst + 1) ws := by simp [rbufBytes]

/-- What is left to count when bytes have been stored. -/
theorem Loaded.cnt_toNat (h : Loaded s t acts bytes p) (hle : bytes.length ≤ s.work.cnt.toNat) :
    t.work.cnt.toNat = s.work.cnt.toNat - bytes.length := by
  have := s.work.cnt.isLt
  rw [h.cnt, BitVec.toNat_sub_of_le] <;> simp [BitVec.le_def] <;> omega

/-- Steps C2 to C4 over the words. -/
theorem rbuf_words (hF : Feeds P) (hh : s.host = []) (hp : s.pos = commandAt .rbuf a0 a1 a2 2)
    (hP : P s.windowView ws bs) (hcnt : s.work.cnt.toNat = 4 * ws.length + bs.length) (hbs : bs.length < 4) :
    ∃ k t, Runs k s t ∧ P t.windowView [] bs ∧
      Loaded s t (rbufWords s.work.src s.work.dst ws) (bytesOf ws) (commandAt .rbuf a0 a1 a2 9) := by
  induction ws generalizing s with
  | nil => exact ⟨1, _, Runs.one (step_rbuf_wordsDone hh hp (by simp_all)), hP, Loaded.moved s _⟩
  | cons w ws ih =>
    rw [List.length_cons] at hcnt
    obtain ⟨hw, hP'⟩ := hF.word hP
    obtain ⟨t, hr, hview, hl⟩ := rbuf_word hh hp (by omega)
    rw [hw] at hl
    have hcnt' : t.work.cnt.toNat = 4 * ws.length + bs.length := by
      rw [hl.cnt_toNat] <;> rw [bytesOf_length, List.length_singleton] <;> omega
    obtain ⟨k, u, hr', hPu, hl'⟩ := ih (hl.host.trans hh) hl.pos (hview ▸ hP') hcnt'
    rw [hl.src, hl.dst] at hl'
    refine ⟨_, u, hr.trans hr', hPu, ?_⟩
    rw [bytesOf_cons, rbufWords_cons]
    exact hl.trans hl'

/-- Steps C5 to C7 over the bytes. -/
theorem rbuf_bytes (hF : Feeds P) (hh : s.host = []) (hp : s.pos = commandAt .rbuf a0 a1 a2 9)
    (hP : P s.windowView [] bs) (hcnt : s.work.cnt.toNat = bs.length) :
    ∃ k t, Runs k s t ∧ P t.windowView [] [] ∧
      Loaded s t (rbufBytes s.work.src s.work.dst bs) (bs.map answerByte) (commandAt .rbuf a0 a1 a2 13) := by
  induction bs generalizing s with
  | nil =>
    have hc : s.work.cnt = 0 := BitVec.eq_of_toNat_eq hcnt
    exact ⟨1, _, Runs.one (step_rbuf_done hh hp hc), hP, Loaded.moved s _⟩
  | cons b bs ih =>
    rw [List.length_cons] at hcnt
    have hc : s.work.cnt ≠ 0 := fun e => by simp [e] at hcnt
    obtain ⟨hb, hP'⟩ := hF.byte hP
    obtain ⟨t, hr, hview, hl⟩ := rbuf_byte hh hp hc hb
    have hcnt' : t.work.cnt.toNat = bs.length := by
      rw [hl.cnt_toNat] <;> rw [List.length_singleton] <;> omega
    obtain ⟨k, u, hr', hPu, hl'⟩ := ih (hl.host.trans hh) hl.pos (hview ▸ hP') hcnt'
    rw [hl.src, hl.dst] at hl'
    refine ⟨_, u, hr.trans hr', hPu, ?_⟩
    rw [rbufBytes_cons]
    exact hl.trans hl'

/-- RBUF from step C2 on: `v` is the state before its completion. -/
theorem rbuf_runs (hF : Feeds P) (hh : s.host = []) (a0 a1 a2 : Word)
    (hP : P ⟨s.part, s.ctrl, s.regs.bankBase, s.answers, s.work.a1⟩ ws bs)
    (hws : ws.length = s.work.a2.toNat / 4) (hbs : bs.length = s.work.a2.toNat % 4) :
    ∃ k v, Runs k (s.rbufStarted a0 a1 a2) (v.elapse.complete 0) ∧ P v.windowView [] [] ∧
      Loaded (s.rbufStarted a0 a1 a2) v (rbufWords s.work.a1 s.work.a0 ws ++
          rbufBytes (s.work.a1 + BitVec.ofNat 32 (4 * ws.length)) (s.work.a0 + BitVec.ofNat 32 (4 * ws.length)) bs)
        (bytesOf ws ++ bs.map answerByte) (commandAt .rbuf a0 a1 a2 13) := by
  let u := s.rbufStarted a0 a1 a2
  obtain ⟨k, x, hrx, hPx, hx⟩ := rbuf_words (s := u) (ws := ws) (bs := bs) hF hh rfl hP
    (show s.work.a2.toNat = _ by omega) (by omega)
  have hcnt : x.work.cnt.toNat = bs.length := by
    rw [hx.cnt_toNat] <;> rw [bytesOf_length] <;> simp only [u, State.rbufStarted] <;> omega
  obtain ⟨k', v, hrv, hPv, hv⟩ := rbuf_bytes hF (hx.host.trans hh) hx.pos hPx hcnt
  have hxv := hx.trans hv
  rw [hx.src, hx.dst, bytesOf_length] at hxv
  exact ⟨_, v, (hrx.trans hrv).trans (Runs.one (step_rbuf_complete (hxv.host.trans hh) hxv.pos)), hPv, hxv⟩

end Sys2Proof.Machine
end

section
/-! RBUF with the part the oracle (43_range_and_buffer.md R147), and with the reference part in default mode
(93_implementation_defined.md K4). -/

namespace Sys2Proof.Machine

variable {s t : State} {acts : List PortAction} {bytes : List Byte} {q : List Frame} {ws bs rest : List Word}
  {p : RefPart} {a : Word} {k m n o : Nat}

/-! ### The buffer after a stretch of RBUF -/

theorem Loaded.read_at (h : Loaded s t acts bytes q) (hm : Memory.wf s.buf = true) (hlen : bytes.length < 2 ^ 32)
    (hk : k < bytes.length) : Memory.read t.buf (bufAddr s.work.dst k) = bytes.getD k 0 := by
  rw [h.buf]
  exact read_storeBytes_at hm (Nat.le_of_lt hlen) hk

theorem Loaded.read_other {b : Nat} (h : Loaded s t acts bytes q)
    (hb : ∀ k < bytes.length, b ≠ bufAddr s.work.dst k) :
    Memory.read t.buf b = Memory.read s.buf b := by
  rw [h.buf]
  exact read_storeBytes_other hb

/-! ### The oracle -/

/-- The oracle's answers are the words and the bytes, in order. -/
def OracleFeed (rest : List Word) (v : WindowView) (ws bs : List Word) : Prop :=
  v.part = none ∧ v.answers = ws ++ bs ++ rest

theorem feeds_oracle (rest : List Word) : Feeds (OracleFeed rest) where
  word := by
    rintro s w ws bs ⟨ho, ha⟩
    refine ⟨(State.windowWord_oracle ho _).trans (State.drawn_of_answers ha), ?_⟩
    rw [State.viewAfterRead, State.afterWindow_oracle ho]
    exact ⟨ho, congrArg List.tail ha⟩
  byte := by
    rintro s b bs ⟨ho, ha⟩
    refine ⟨(State.windowByte_oracle ho _).trans (congrArg answerByte (State.drawn_of_answers ha)), ?_⟩
    rw [State.viewAfterRead, State.afterWindow_oracle ho]
    exact ⟨ho, congrArg List.tail ha⟩

/-- Settles O40: the run of RBUF, with the oracle's answers for the words and the bytes. -/
theorem readPathRuns : Obligations.ReadPathRuns := by
  unfold Obligations.ReadPathRuns
  rintro s ws bs rest ⟨hh, ho⟩ ⟨a0, a1, a2, hp⟩ hm hws hbs ha
  obtain ⟨k, v, hr, ⟨-, hrest⟩, hl⟩ := rbuf_runs (feeds_oracle rest) hh a0 a1 a2 ⟨ho, ha⟩ hws hbs
  have hlen : (bytesOf ws ++ bs.map answerByte).length = s.work.a2.toNat := by
    rw [List.length_append, bytesOf_length, List.length_map]
    omega
  refine ⟨_, k, v.elapse.complete 0, exec_rbuf_start hp, hr, rfl, ?_, hl.ctrl, hrest, hl.desc, hl.prot, hl.trace,
    fun j hj => ?_, fun b hb => ?_⟩
  · rw [State.complete_regs, State.elapse_regs, hl.regs]
    rfl
  · exact hl.read_at hm (hlen ▸ s.work.a2.isLt) (hlen ▸ hj)
  · exact hl.read_other fun j hj => hb j (hlen ▸ hj)

/-! ### The reference part -/

/-- An aligned read of the reference part in default mode returns its array. -/
theorem State.windowBytes_reference (hpart : s.part = some p) (hd : defaultMode s.ctrl = true) (ha : a.toNat % n = 0)
    (hsrc : a = s.regs.bankBase + BitVec.ofNat 32 o) (hn : 0 < n) (hin : o + n ≤ p.size) (hsize : p.size ≤ 2 ^ 32) :
    s.windowBytes a n = some ((List.range n).map fun j => Memory.read p.array (o + j)) := by
  have hoff : (a - s.regs.bankBase).toNat = o := by
    rw [hsrc, BitVec.add_comm, BitVec.add_sub_cancel, BitVec.toNat_ofNat, Nat.mod_eq_of_lt (by omega)]
  simp [State.windowBytes, hpart, hd, ha, hoff, RefPart.window, hin]

theorem answerByte_setWidth (b : Byte) : answerByte (b.setWidth 32) = b := by
  apply BitVec.eq_of_toNat_eq
  have := b.isLt
  simp [answerByte]
  omega

/-- The word of the array at an offset (20_memory.md R43: little-endian). -/
def RefPart.wordAt (p : RefPart) (o : Nat) : Word :=
  Memory.read p.array (o + 3) ++ Memory.read p.array (o + 2) ++ Memory.read p.array (o + 1) ++ Memory.read p.array o

/-- RBUF is about to read the reference part `p` at offset `o`, in what is else the window of `s`. -/
structure ArrayView (p : RefPart) (s : State) (o : Nat) (v : WindowView) : Prop where
  part : v.part = some p
  ctrl : v.ctrl = s.ctrl
  bankBase : v.bankBase = s.regs.bankBase
  answers : v.answers = s.answers
  src : v.src = s.regs.bankBase + BitVec.ofNat 32 o

/-- An aligned read of `n` bytes inside the part gives those of the array, and changes nothing but `w_src`. -/
theorem ArrayView.read (h : ArrayView p s o t.windowView) (hd : defaultMode s.ctrl = true)
    (ha : t.work.src.toNat % n = 0) (hn : 0 < n) (hin : o + n ≤ p.size) (hsize : p.size ≤ 2 ^ 32) :
    t.windowBytes t.work.src n = some ((List.range n).map fun j => Memory.read p.array (o + j)) ∧
    ArrayView p s (o + n) (t.viewAfterRead n) := by
  obtain ⟨hpart, hctrl, hbank, hans, hsrc⟩ := h
  have hctrl' : t.ctrl = s.ctrl := hctrl
  have hsrc' : t.work.src = t.regs.bankBase + BitVec.ofNat 32 o := hsrc.trans (by rw [← hbank]; rfl)
  have hbytes := State.windowBytes_reference hpart (by rw [hctrl', hd]) ha hsrc' hn hin hsize
  have hview : t.viewAfterRead n = { t.windowView with src := t.work.src + BitVec.ofNat 32 n } := by
    simp [State.viewAfterRead, State.afterWindow, hbytes]
  refine ⟨hbytes, hview ▸ ⟨hpart, hctrl, hbank, hans, ?_⟩⟩
  rw [BitVec.ofNat_add, ← BitVec.add_assoc, ← hsrc]
  rfl

/-- The words and the bytes still to be read are those of the array from some offset on, inside the part. -/
def ArrayFeed (p : RefPart) (s : State) (v : WindowView) (ws bs : List Word) : Prop :=
  ∃ o, ArrayView p s o v ∧ (ws ≠ [] → v.src.toNat % 4 = 0) ∧ o + 4 * ws.length + bs.length ≤ p.size ∧
    ws = (List.range' o ws.length 4).map p.wordAt ∧
    bs.map answerByte = (List.range' (o + 4 * ws.length) bs.length).map (Memory.read p.array)

theorem feeds_array (hd : defaultMode s.ctrl = true) (hsize : p.size ≤ 2 ^ 32) : Feeds (ArrayFeed p s) where
  word := by
    rintro t w ws bs ⟨o, hv, ha, hin, hws, hbs⟩
    have hmod : t.work.src.toNat % 4 = 0 := ha (List.cons_ne_nil w ws)
    rw [List.length_cons] at hin hws hbs
    obtain ⟨rfl, hws'⟩ := List.cons.inj hws
    obtain ⟨hbytes, hnext⟩ := hv.read hd hmod (by decide) (by omega) hsize
    have halign : (t.viewAfterRead 4).src.toNat % 4 = 0 := by
      simp only [State.viewAfterRead, BitVec.toNat_add, BitVec.toNat_ofNat]
      omega
    refine ⟨by simp [State.windowWord, hbytes, List.range, List.range.loop, RefPart.wordAt], o + 4, hnext,
      fun _ => halign, by omega, hws', ?_⟩
    rw [hbs, Nat.mul_succ, Nat.add_assoc, Nat.add_comm 4]
  byte := by
    rintro t b bs ⟨o, hv, -, hin, -, hbs⟩
    rw [List.length_cons] at hin hbs
    obtain ⟨hb, hbs⟩ := List.cons.inj hbs
    obtain ⟨hbytes, hnext⟩ := hv.read hd (Nat.mod_one _) Nat.one_pos (by simp at hin; omega) hsize
    exact ⟨by simpa [State.windowByte, hbytes] using hb.symm, o + 1, hnext, fun h => absurd rfl h,
      by simp at hin ⊢; omega, rfl, hbs⟩

/-- The bytes of a word are those it is made of, low byte first (20_memory.md R43). -/
theorem bytesOf_append (b0 b1 b2 b3 : Byte) : bytesOf [b3 ++ b2 ++ b1 ++ b0] = [b0, b1, b2, b3] := by
  have h0 : (b3 ++ b2 ++ b1 ++ b0).extractLsb' 0 8 = b0 := by rw [BitVec.extractLsb'_append_eq_right]
  have h1 : (b3 ++ b2 ++ b1 ++ b0).extractLsb' 8 8 = b1 := by
    rw [BitVec.extractLsb'_append_eq_of_le (by decide), BitVec.extractLsb'_append_eq_right]
  have h2 : (b3 ++ b2 ++ b1 ++ b0).extractLsb' 16 8 = b2 := by
    rw [BitVec.extractLsb'_append_eq_of_le (by decide), BitVec.extractLsb'_append_eq_of_le (by decide),
      BitVec.extractLsb'_append_eq_right]
  have h3 : (b3 ++ b2 ++ b1 ++ b0).extractLsb' 24 8 = b3 := by
    rw [BitVec.extractLsb'_append_eq_of_le (by decide), BitVec.extractLsb'_append_eq_of_le (by decide),
      BitVec.extractLsb'_append_eq_left]
  simp [bytesOf, h0, h1, h2, h3]

theorem bytesOf_wordAt (p : RefPart) (o : Nat) : bytesOf [p.wordAt o] = (List.range' o 4).map (Memory.read p.array) :=
  bytesOf_append ..

theorem bytesOf_words (p : RefPart) (o m : Nat) :
    bytesOf ((List.range' o m 4).map p.wordAt) = (List.range' o (4 * m)).map (Memory.read p.array) := by
  induction m generalizing o with
  | zero => rfl
  | succ m ih =>
    rw [List.range'_succ, List.map_cons, bytesOf_cons, ih, bytesOf_wordAt, ← List.map_append,
      List.range'_append_1, Nat.mul_succ, Nat.add_comm 4]

/-- Settles O41: the run of RBUF, with the array's words and bytes. -/
theorem readPathReproducesTheArray : Obligations.ReadPathReproducesTheArray := by
  unfold Obligations.ReadPathReproducesTheArray
  rintro s p hh hpart ⟨a0, a1, a2, hp⟩ hm hd ha hsize hin
  let o := (s.work.a1 - s.regs.bankBase).toNat
  let m := s.work.a2.toNat / 4
  let n := s.work.a2.toNat % 4
  let bs : List Word := (List.range' (o + 4 * m) n).map fun i => (Memory.read p.array i).setWidth 32
  have hbs : bs.map answerByte = (List.range' (o + 4 * m) n).map (Memory.read p.array) := by
    simp [bs, answerByte_setWidth, Function.comp_def]
  have hsrc : s.work.a1 = s.regs.bankBase + BitVec.ofNat 32 o := by
    rw [BitVec.ofNat_toNat, BitVec.setWidth_eq, BitVec.add_comm, BitVec.sub_add_cancel]
  have hfeed : ArrayFeed p s ⟨s.part, s.ctrl, s.regs.bankBase, s.answers, s.work.a1⟩
      ((List.range' o m 4).map p.wordAt) bs :=
    ⟨o, ⟨hpart, rfl, rfl, rfl, hsrc⟩, fun _ => ha, by simp [bs, m, n]; omega, by simp, by simpa [bs] using hbs⟩
  obtain ⟨k, v, hr, ⟨_, hv, -⟩, hl⟩ :=
    rbuf_runs (feeds_array hd hsize) hh a0 a1 a2 hfeed (by simp [m]) (by simp [bs, n])
  have hbytes : bytesOf ((List.range' o m 4).map p.wordAt) ++ bs.map answerByte =
      (List.range' o s.work.a2.toNat).map (Memory.read p.array) := by
    rw [hbs, bytesOf_words, ← List.map_append, List.range'_append_1, Nat.div_add_mod]
  rw [hbytes] at hl
  refine ⟨_, k, v.elapse.complete 0, exec_rbuf_start hp, hr, rfl, hv.part.trans hpart.symm, hv.ctrl, hv.answers,
    fun j hj => ?_⟩
  refine (hl.read_at hm (by simpa using s.work.a2.isLt) (by simpa using hj)).trans ?_
  simp [hj, o]

end Sys2Proof.Machine
end

section
/-! Writes the host must not make while busy, and the end of the composed commands (60_exceptions.md R161, R169,
10_state.md R22, 41_identification.md R111). -/

namespace Sys2Proof.Machine

variable {s : State}

/-- Settles O15, register by register. -/
theorem writesTheHostMustNotMakeAreRefused : Obligations.WritesTheHostMustNotMakeAreRefused := by
  unfold Obligations.WritesTheHostMustNotMakeAreRefused
  intro s v rest hb
  refine ⟨fun hh => ?_, fun hh => ?_, fun hlt hh => ?_, fun hle hh => ?_⟩
  · rw [step_of_write .cmd hh]; simp [writeReg, hb]
  · rw [step_of_write .bankBase hh]; simp [writeReg, hb]
  · rw [step_of_write .protData hh]; simp [writeReg, hb, Nat.not_le.2 hlt]
  · rw [step_of_write .protData hh]; simp [writeReg, hle]

/-- ERASE, WBUF and RBUF end with `complete(0)`. -/
theorem exec_composed_end {op : Instr}
    (hend : (op = .erase ∧ s.stepNo = 10) ∨ (op = .wbuf ∧ s.stepNo = 7) ∨ (op = .rbuf ∧ s.stepNo = 13)) :
    exec op s = .next (s.complete 0) := by
  obtain ⟨rfl, hn⟩ | ⟨rfl, hn⟩ | ⟨rfl, hn⟩ := hend
  · simp [exec, execErase, hn]
  · simp [exec, execWbuf, hn]
  · simp [exec, execRbuf, hn]

/-- IDENT ends so too, and sets `IDENTIFIED`. -/
theorem execIdent_end (hn : s.stepNo = 11) :
    execIdent s = .next ({ s with desc.identified := true }.complete 0) := by
  simp [execIdent, hn]

/-- Settles O23: the last step of each is `State.complete` with code 0. -/
theorem commandsCompleteInOneStep : Obligations.CommandsCompleteInOneStep := by
  unfold Obligations.CommandsCompleteInOneStep
  intro s f fs hp
  rw [← State.stepNo_of_running hp]
  refine ⟨exec_composed_end, fun ⟨ho, hn⟩ => ?_⟩
  rw [ho]
  exact execIdent_end hn

end Sys2Proof.Machine
end

section
/-! A status poll whose answers do not end it (40_control_word_and_transaction.md R83, 60_exceptions.md R165). -/

namespace Sys2Proof.Machine

variable {s : State} {f : Frame} {fs : List Frame}

/-- A poll that reads an unwanted byte stays at its read. -/
theorem tailStep_poll_unmet {mask want : Byte} (hw : windowOpen s.ctrl = true)
    (hb : s.shiftedIn &&& mask ≠ want) : tailStep (.poll mask want) s = .next s.read8 := by
  simp [tailStep, State.dataRead8_open hw, State.read8, pollMet, hb]

/-- The same as a step of the machine. -/
theorem step_poll_unmet (hh : s.host = []) (hp : s.pos = f :: fs) (ho : f.op = .spoll) (hn : f.step = 5)
    (hw : windowOpen s.ctrl = true) (hb : s.elapse.shiftedIn &&& f.a0.setWidth 8 ≠ f.a1.setWidth 8) :
    step s = .next s.elapse.read8 := by
  have hpe : s.elapse.pos = f :: fs := hp
  rw [step_of_running hh hp, ho]
  simp only [exec, execSpoll, txnStep, State.stepNo_of_running hpe, State.frame_of_running hpe, hn]
  exact tailStep_poll_unmet hw hb

/-- A status byte read from the oracle is one answer, and the part stays the oracle. -/
theorem State.read8_oracle (h : s.part = none) : s.read8.part = none ∧ s.read8.answers = s.answers.tail ∧
    s.read8.host = s.host ∧ s.read8.trace = s.trace ++ [.dataRead8 s.regs.bankBase (answerByte s.drawn)] := by
  simp [State.read8, State.afterShiftIn_oracle h, State.shiftedIn_oracle h, h, answerByte, State.afterDraw]

/-- Settles O42, by induction on the number of reads: each takes the oldest answer and leaves the poll where it is. -/
theorem unansweredPollRunsOn : Obligations.UnansweredPollRunsOn := by
  unfold Obligations.UnansweredPollRunsOn
  intro s f fs hu hp ho hn hw hunmet k hk
  induction k generalizing s with
  | zero => exact ⟨s, Runs.zero s, rfl, rfl, rfl, by simp [pollTrace]⟩
  | succ k ih =>
    obtain ⟨hh, hpart⟩ := hu
    obtain ⟨w, ws, ha⟩ := List.exists_cons_of_length_pos (Nat.zero_lt_of_lt hk)
    rw [ha] at hunmet hk
    have hd : s.elapse.drawn = w := State.drawn_of_answers ha
    obtain ⟨hpart', ha', hh', htr'⟩ := State.read8_oracle (s := s.elapse) hpart
    have hstep : step s = .next s.elapse.read8 := by
      refine step_poll_unmet hh hp ho hn hw ?_
      rw [State.shiftedIn_oracle (s := s.elapse) hpart, hd]
      exact hunmet w List.mem_cons_self
    have hws : s.elapse.read8.answers = ws := by rw [ha', State.elapse_answers, ha, List.tail_cons]
    obtain ⟨t, hr, hpos, hregs, hctrl, htr⟩ := ih s.elapse.read8 ⟨hh'.trans hh, hpart'⟩ (by simpa using hp)
      (by simpa using hw) (by rw [hws]; exact fun x hx => hunmet x (List.mem_cons_of_mem _ hx))
      (by rw [hws]; exact Nat.le_of_succ_le_succ hk)
    refine ⟨t, Runs.succ hstep hr, by simpa using hpos, by simpa using hregs, by simpa using hctrl, ?_⟩
    rw [htr, htr', hws, hd, ha]
    simp [pollTrace]

end Sys2Proof.Machine
end

section
/-! What a step can answer (60_exceptions.md R160, R165): where a procedure stops, and that under the invariant the
sequencer does not, but for ERASE of a range beyond the sectors. -/

namespace Sys2Proof.Machine

variable {s : State} {op : Instr} {f : Frame} {fs : List Frame} {r : Result}

/-! ### What one step of a procedure can answer -/

/-- A next state; the fault at a step the procedure does not have; the refusal of ERASE at its range check; or the
refusal of an access to the data window that finds it closed. -/
inductive Answer (op : Instr) (s : State) : Result → Prop where
  | next (t : State) : Answer op s (.next t)
  | noSuchStep (h : s.stepNo < 1 ∨ lastStep op < s.stepNo) : Answer op s (.fault .noSuchStep)
  | beyondSectors (ho : op = .erase) (hn : s.stepNo = 2) : Answer op s (.refused .eraseBeyondSectors)
  | windowClosed (hsp : op.space = .wire) (hn : s.stepNo = 3 ∨ s.stepNo = 5 ∨ s.stepNo = 9)
      (hw : windowOpen s.ctrl = false) : Answer op s (.refused .windowClosed)

theorem Answer.thenNext (h : Answer op s r) (g : State → State) : Answer op s (thenNext r g) := by
  cases h with
  | next t => exact .next (g t)
  | noSuchStep h => exact .noSuchStep h
  | beyondSectors ho hn => exact .beyondSectors ho hn
  | windowClosed hsp hn hw => exact .windowClosed hsp hn hw

/-- An access to the data window goes on while it is open. -/
theorem Answer.access (hsp : op.space = .wire) (hn : s.stepNo = 3 ∨ s.stepNo = 5 ∨ s.stepNo = 9) (t : State) :
    Answer op s (if windowOpen s.ctrl then .next t else .refused .windowClosed) := by
  split
  · exact .next t
  · next hw => exact .windowClosed hsp hn (by simpa using hw)

/-! ### The host commands' procedures -/

theorem execIdent_answer (s : State) : Answer .ident s (execIdent s) := by
  unfold execIdent
  split
  case h_5 | h_6 | h_8 => split <;> exact .next _
  case h_12 => exact .noSuchStep (by grind [lastStep])
  all_goals exact .next _

theorem execErase_answer (s : State) : Answer .erase s (execErase s) := by
  unfold execErase
  split
  case h_2 hn =>
    split
    · exact .next _
    · split
      · exact .next _
      · exact .beyondSectors rfl hn
  case h_5 | h_7 => split <;> exact .next _
  case h_11 => exact .noSuchStep (by grind [lastStep])
  all_goals exact .next _

theorem execWbuf_answer (s : State) : Answer .wbuf s (execWbuf s) := by
  unfold execWbuf
  split
  case h_2 => split <;> exact .next _
  case h_8 => exact .noSuchStep (by grind [lastStep])
  all_goals exact .next _

theorem execRbuf_answer (s : State) : Answer .rbuf s (execRbuf s) := by
  unfold execRbuf
  split
  case h_2 | h_9 => split <;> exact .next _
  case h_14 => exact .noSuchStep (by grind [lastStep])
  all_goals exact .next _

theorem exec_command_answer (hsp : op.space = .command) (s : State) : Answer op s (exec op s) := by
  cases op with
  | ident => exact execIdent_answer s
  | erase => exact execErase_answer s
  | wbuf => exact execWbuf_answer s
  | rbuf => exact execRbuf_answer s
  | wren | reset =>
    simp only [exec, execWren, execReset]
    split
    case h_4 => exact .noSuchStep (by grind [lastStep])
    all_goals exact .next _
  | wrsr | pp | se =>
    simp only [exec, execWrsr, execPp, execSe]
    split
    case h_5 => exact .noSuchStep (by grind [lastStep])
    all_goals exact .next _
  | rdid | spiWren | spoll | spiWrsr | spiPp | spiSe => cases hsp

/-! ### The transactions -/

/-- The last step of a transaction with this tail: only data bytes need the two steps of G9 (R122). -/
def Tail.lastStep : Tail → Nat
  | .data _ _ => 10
  | .none | .poll _ _ | .read24 => 8

theorem Tail.lastStep_le (tail : Tail) : tail.lastStep ≤ 10 := by cases tail <;> simp [Tail.lastStep]

theorem exec_wire_lastStep (hsp : op.space = .wire) (s : State) :
    ∃ div out tail, exec op s = txnStep div out tail s ∧ lastStep op = tail.lastStep := by
  cases op with
  | rdid | spiWren | spoll | spiWrsr | spiPp | spiSe => exact ⟨_, _, _, rfl, rfl⟩
  | ident | wren | wrsr | pp | se | reset | erase | wbuf | rbuf => cases hsp

theorem tailStep_answer (hsp : op.space = .wire) (hn : s.stepNo = 5) (tail : Tail) :
    Answer op s (tailStep tail s) := by
  cases tail with
  | none => exact .next _
  | poll | read24 => exact (Answer.access hsp (by simp [hn]) _).thenNext _
  | data =>
    unfold tailStep
    dsimp only
    split <;> exact .next _

theorem txnStep_answer (hsp : op.space = .wire) (div : DivCode) (out : List Byte) {tail : Tail}
    (hl : lastStep op = tail.lastStep) : Answer op s (txnStep div out tail s) := by
  unfold txnStep
  split
  case h_3 hn => exact (Answer.access hsp (by simp [hn]) _).thenNext _
  case h_4 => split <;> exact .next _
  case h_5 hn => exact tailStep_answer hsp hn tail
  case h_9 hn =>
    cases tail with
    | data => exact (Answer.access hsp (by simp [hn]) _).thenNext _
    | none | poll | read24 => exact .noSuchStep (by simp [hl, Tail.lastStep, hn])
  case h_10 hn =>
    cases tail with
    | data => exact .next _
    | none | poll | read24 => exact .noSuchStep (by simp [hl, Tail.lastStep, hn])
  case h_11 =>
    have hle : lastStep op ≤ 10 := hl ▸ tail.lastStep_le
    exact .noSuchStep (by grind)
  all_goals exact .next _

/-! ### The sequencer -/

theorem exec_answer (op : Instr) (s : State) : Answer op s (exec op s) := by
  cases hsp : op.space with
  | command => exact exec_command_answer hsp s
  | wire =>
    obtain ⟨div, out, tail, hx, hl⟩ := exec_wire_lastStep hsp s
    rw [hx]
    exact txnStep_answer hsp div out hl

/-- The sequencer goes on, or stops where ERASE finds its range beyond the sectors. -/
def GoesOn (s : State) (r : Result) : Prop :=
  (∃ t, r = .next t) ∨
    (r = .refused .eraseBeyondSectors ∧ ∃ f fs, s.pos = f :: fs ∧ f.op = .erase ∧ f.step = 2)

/-- At a position the procedures can be at, with the window open where it must be, a procedure does not stop. -/
theorem Answer.goesOn (h : Answer f.op s r) (hi : s.PosInv) (hp : s.pos = f :: fs) : GoesOn s r := by
  obtain ⟨-, hs, hw⟩ := hi.running hp
  have hn : s.stepNo = f.step := State.stepNo_of_running hp
  cases h with
  | next t => exact .inl ⟨t, rfl⟩
  | noSuchStep hout =>
    have hok := stackOk_top hs
    simp only [Frame.ok, Bool.decide_and, Bool.and_eq_true, decide_eq_true_eq] at hok
    omega
  | beyondSectors ho h2 => exact .inr ⟨rfl, f, fs, hp, ho, hn ▸ h2⟩
  | windowClosed hsp hin hclosed =>
    have hopen : windowOpen s.ctrl = true := hw (by simp [inWindow, hsp]; omega)
    simp [hopen] at hclosed

theorem State.Inv.seqMove_goesOn (hi : s.Inv) : GoesOn s (seqMove s) := by
  unfold seqMove
  split
  · next f fs hp => exact (exec_answer f.op s.elapse).goesOn { hi.posInv with } hp
  · exact .inl ⟨s, rfl⟩

theorem GoesOn.not_fault (h : GoesOn s r) (e : Fault) : r ≠ .fault e := by
  obtain ⟨t, rfl⟩ | ⟨rfl, -⟩ := h <;> simp

/-! ### The host -/

theorem writeReg_not_fault (s : State) (r : HostReg) (v : Word) (e : Fault) : writeReg s r v ≠ .fault e := by
  unfold writeReg
  repeat' split
  all_goals simp

theorem hostStep_not_fault (s : State) (a : HostAction) (e : Fault) : hostStep s a ≠ .fault e := by
  cases a with
  | write off v =>
    simp only [hostStep]
    split
    · exact writeReg_not_fault s _ v e
    · simp
  | read off =>
    simp only [hostStep]
    split <;> simp
  | wait | pass | hwReset | store | clock => simp [hostStep]

/-! ### Every step -/

theorem State.Inv.step_not_fault (hi : s.Inv) (e : Fault) : step s ≠ .fault e := by
  have of_host (rest : List HostAction) : ({ s with host := rest } : State).Inv := { hi with }
  unfold step move
  split
  · exact hi.seqMove_goesOn.not_fault e
  · exact (of_host _).seqMove_goesOn.not_fault e
  · split
    · exact hi.seqMove_goesOn.not_fault e
    · simp
  · exact hostStep_not_fault _ _ e

/-- Settles O58: the host raises no fault, and under the invariant the sequencer goes on. -/
theorem sequencerAlwaysHasANextStep : Obligations.SequencerAlwaysHasANextStep := by
  unfold Obligations.SequencerAlwaysHasANextStep
  intro s hi
  refine ⟨hi.step_not_fault, fun hh => ?_⟩
  have hstep : step s = seqMove s := by simp [step, move, hh]
  rw [hstep]
  exact hi.seqMove_goesOn

end Sys2Proof.Machine
end

section
/-! ERASE before IDENT has found a part (70_reset_and_hazards.md R184, 43_range_and_buffer.md R140). -/

namespace Sys2Proof.Machine

variable {base : Word} {d : Descriptor} {is : List Nat} {ps : List TwoPolls}

/-- With `SECSZ` 0 every sector is at offset 0. -/
theorem eraseTrace_of_secsz_zero (hd : d.secsz = 0) (hlen : ps.length = is.length) :
    eraseTrace base d is ps = ps.flatMap fun p => seTrace base d.wdiv d.ediv 0 p.wel p.wip := by
  have hoff (i : Nat) : BitVec.ofNat 32 i * d.secsz = 0 := by rw [hd]; exact BitVec.mul_zero
  have hsnd : (is.zip ps).map Prod.snd = ps := List.map_snd_zip (Nat.le_of_eq hlen)
  calc eraseTrace base d is ps
      = ((is.zip ps).map Prod.snd).flatMap fun p => seTrace base d.wdiv d.ediv 0 p.wel p.wip := by
        simp only [eraseTrace, hoff, List.flatMap_map]
    _ = ps.flatMap fun p => seTrace base d.wdiv d.ediv 0 p.wel p.wip := by rw [hsnd]

/-- Settles O37: with `NSECT` 0 the flags alone bound the range, and its sectors run as those of any range. -/
theorem eraseWithoutAPartRunsAtOffsetZero : Obligations.EraseWithoutAPartRunsAtOffsetZero := by
  unfold Obligations.EraseWithoutAPartRunsAtOffsetZero
  rintro s ps rest hu ⟨a0, a1, a2, hp⟩ h0 hle hflag hnsect hsecsz sectors hps hgood ha
  obtain ⟨u, k, t, he, hr, hregs, -, hleg⟩ :=
    erase_runs hu hp h0 hle (by simp [eraseRangeExists, hflag, hnsect]) rfl hps hgood ha
  rw [eraseTrace_of_secsz_zero hsecsz hps] at hleg
  refine ⟨u, k, t, he, hr, hleg.pos, ?_⟩
  rw [hregs]
  exact ⟨rfl, rfl, rfl, rfl, by simp [hleg.answers, ha], hleg.trace⟩

end Sys2Proof.Machine
end

section
/-! The sums of the delays of the traces the procedures make (70_reset_and_hazards.md R197). -/

namespace Sys2Proof.Machine

variable {s : State} {op : Instr} {acts : List PortAction} {ctrl : Word} {draws d : Nat}

/-! ### The sum of each trace -/

@[simp] theorem delaySum_append (es fs : List PortAction) : delaySum (es ++ fs) = delaySum es + delaySum fs := by
  induction es with
  | nil => simp [delaySum]
  | cons e es ih => cases e <;> simp [delaySum, ih, Nat.add_assoc]

/-- Each byte sent settles for `T_BYTE`. -/
theorem delaySum_sent (base : Word) (out : List Byte) :
    delaySum (out.flatMap fun b => [.dataWrite8 base b, .delay 10]) = 10 * out.length := by
  induction out with
  | nil => rfl
  | cons b out ih =>
    simp only [List.flatMap_cons, delaySum_append, ih, delaySum, List.length_cons]
    omega

/-- Both control writes settle for `T_CTRL`. -/
@[simp] theorem delaySum_txnTrace (base : Word) (div : DivCode) (out : List Byte) (tail : List PortAction) :
    delaySum (txnTrace base div out tail) = 200 + 10 * out.length + delaySum tail := by
  simp only [txnTrace, delaySum_append, delaySum_sent, delaySum]
  omega

/-- A poll reads without a delay. -/
@[simp] theorem delaySum_pollTrace (base : Word) (ws : List Word) : delaySum (pollTrace base ws) = 0 := by
  induction ws with
  | nil => rfl
  | cons w ws ih => exact ih

@[simp] theorem delaySum_dataTrace (base : Word) (buf : Memory) (src : Word) (k n : Nat) :
    delaySum (dataTrace base buf src k n) = 10 * n := by
  induction n generalizing k with
  | zero => rfl
  | succ n ih =>
    simp only [dataTrace, delaySum_append, ih, delaySum]
    omega

@[simp] theorem delaySum_spollTrace (base : Word) (div : DivCode) (ws : List Word) :
    delaySum (spollTrace base div ws) = 210 := by
  simp [spollTrace]

@[simp] theorem delaySum_wrenTrace (base : Word) (wdiv : DivCode) (wel : List Word) :
    delaySum (wrenTrace base wdiv wel) = 420 := by
  simp [wrenTrace, delaySum]

theorem delaySum_spiPpTrace (base : Word) (wdiv : DivCode) (buf : Memory) (a2 a1 a0 : Byte) (src n : Word) :
    delaySum (spiPpTrace base wdiv buf a2 a1 a0 src n) = 240 + 10 * n.toNat := by
  simp [spiPpTrace]

theorem delaySum_wrsrTrace (base : Word) (wdiv : DivCode) (v : Byte) (wel wip : List Word) :
    delaySum (wrsrTrace base wdiv v wel wip) = 850 := by
  simp [wrsrTrace, delaySum]

theorem delaySum_seTrace (base : Word) (wdiv ediv : DivCode) (off : Word) (wel wip : List Word) :
    delaySum (seTrace base wdiv ediv off wel wip) = 870 := by
  simp [seTrace, delaySum]

theorem delaySum_ppTrace (base : Word) (wdiv : DivCode) (buf : Memory) (off src n : Word) (wel wip : List Word) :
    delaySum (ppTrace base wdiv buf off src n wel wip) = 870 + 10 * n.toNat := by
  simp only [ppTrace, delaySum_append, delaySum_wrenTrace, delaySum_spiPpTrace, delaySum_spollTrace]
  omega

theorem delaySum_rdidTrace (base w : Word) : delaySum (rdidTrace base w) = 210 := by
  simp [rdidTrace, delaySum]

theorem delaySum_resetTrace (rdiv : DivCode) : delaySum (resetTrace rdiv) = 100 := rfl

/-! ### The procedures -/

/-- A run to the end with a known trace has the delays of that trace. -/
theorem EndsWithDelay.of_finished (hd : delaySum acts = d)
    (h : ∃ u k t, exec op s = .next u ∧ Runs k u t ∧ Finished s t acts ctrl draws) : EndsWithDelay s op d := by
  obtain ⟨u, k, t, he, hr, hfin⟩ := h
  exact ⟨u, k, t, he, hr, hfin.pos, hfin.regs, acts, hfin.trace, hd⟩

/-- Settles O43: each procedure's run makes its trace, whose delays are summed above. -/
theorem delaySums : Obligations.DelaySums := by
  unfold Obligations.DelaySums
  intro s a0 a1 a2 ws wel wip rest w mask want div b2 b1 b0 v hu
  obtain ⟨hspiWren, hspiWrsr, hspiSe⟩ := sendOnlyTransactionsRun s a0 a1 a2 hu
  refine ⟨fun hc => .of_finished (by simp [delaySum]) (hspiWren hc),
    fun hc => .of_finished (by simp [delaySum]) (hspiWrsr v hc),
    fun hc => .of_finished (by simp [delaySum]) (hspiSe b2 b1 b0 hc),
    fun hc => .of_finished (delaySum_spiPpTrace ..) (pageProgramTransactionRuns s b2 b1 b0 a0 a1 a2 hu hc),
    fun hc ha hws => .of_finished (delaySum_spollTrace ..) (statusPollRuns s mask want div ws rest hu hc ha hws),
    fun hc ha => ?rdid,
    fun hc => .of_finished (delaySum_resetTrace _) (controllerResetRuns s a0 a1 a2 hu hc),
    fun hc ha hwel => .of_finished (delaySum_wrenTrace ..) (writeEnableRuns s a0 a1 a2 wel rest hu hc ha hwel),
    fun ha hwel hwip =>
      ⟨fun hc => .of_finished (delaySum_wrsrTrace ..) (statusWriteRuns s a0 a1 a2 wel wip rest hu hc ha hwel hwip),
       fun hc => .of_finished (delaySum_seTrace ..) (sectorEraseRuns s a0 a1 a2 wel wip rest hu hc ha hwel hwip),
       fun hc => .of_finished (delaySum_ppTrace ..) (pageProgramRuns s a0 a1 a2 wel wip rest hu hc ha hwel hwip)⟩⟩
  case rdid =>
    obtain ⟨u, k, t, he, hr, -, hfin⟩ := readIdRuns s a0 a1 a2 w rest hu hc ha
    exact .of_finished (delaySum_rdidTrace ..) ⟨u, k, t, he, hr, hfin⟩

end Sys2Proof.Machine
end

section
/-! The state after reset and after the reset input (70_reset_and_hazards.md R180 to R182). -/

namespace Sys2Proof.Machine

variable {s : State} {rest : List HostAction}

/-! ### The values of the registers -/

theorem protAt_replicate_false (n j : Nat) : protAt (List.replicate n false) j = false := by
  rw [protAt, List.getD_eq_getElem?_getD, List.getElem?_replicate]
  split <;> rfl

/-- With the interface and the descriptor at their reset values and no sector protected, every host register reads 0. -/
theorem readReg_eq_zero (hregs : s.regs = HostRegs.reset) (hdesc : s.desc = Descriptor.reset)
    (hprot : ∀ j, protAt s.prot j = false) (r : HostReg) : readReg s r = 0 := by
  cases r with
  | protData => simp [readReg, hprot, bit]
  | cmd | status | arg0 | arg1 | arg2 | bankBase | result0 | result1 | protIdx => rw [readReg, hregs]; rfl
  | id | size | nsect | secsz | divs | dflags => rw [readReg, hdesc]; rfl

/-- Settles O11: the fields of `State.reset`. -/
theorem resetLeavesTheValuesOfTheRule : Obligations.ResetLeavesTheValuesOfTheRule := by
  unfold Obligations.ResetLeavesTheValuesOfTheRule
  have hprot : ∀ j, protAt State.reset.prot j = false := protAt_replicate_false Config.maxSectors
  exact ⟨readReg_eq_zero rfl rfl hprot, rfl, hprot, rfl, rfl⟩

/-! ### The reset input -/

theorem step_of_hwReset (hh : s.host = .hwReset :: rest) :
    step s = .next (State.hwReset { s with host := rest }) := by
  simp [step, move, hh, hostStep]

/-- Settles O12: the step is `State.hwReset`, whatever the position. -/
theorem resetInputLeavesTheController : Obligations.ResetInputLeavesTheController := by
  unfold Obligations.ResetInputLeavesTheController
  intro s rest hh
  let t := State.hwReset { s with host := rest }
  have hprot : ∀ j, protAt t.prot j = false := protAt_replicate_false s.prot.length
  exact ⟨t, step_of_hwReset hh, readReg_eq_zero rfl rfl hprot, rfl, hprot, List.length_replicate, rfl, rfl, rfl, rfl,
    rfl, rfl, rfl, rfl, rfl⟩

/-! ### The invariants -/

/-- The controller's default mode, at divisor code 0 (log 9). -/
theorem State.reset_ctrl : State.reset.ctrl = controlWord 0 .high .fastRead := by decide

theorem State.reset_inv : State.reset.Inv := by
  have hctrl : ctrlLegal State.reset.ctrl = true := by rw [State.reset_ctrl]; exact ctrlLegal_default 0
  have hrc : State.reset.regs.rc ≠ 2 := by decide
  have hdesc : State.reset.desc.Ok := by constructor <;> decide
  have hrow : Config.w25x16.fits = true := by simp [PartRow.fits, Config.w25x16]
  exact .of_parts (.of_idle rfl rfl hctrl hrc) (Nat.two_pow_pos 8) hdesc (by simp [State.reset, Config.params, hrow])
    reset_buf_wf

theorem State.reset_disciplined : State.reset.Disciplined where
  window := by rw [State.reset_ctrl]; exact windowOpen_default 0
  trace := rfl

/-- Settles O55: the reset state is idle, in the controller's default mode, with an empty trace. -/
theorem invariantsHoldAtReset : Obligations.InvariantsHoldAtReset := by
  unfold Obligations.InvariantsHoldAtReset
  exact ⟨State.reset_inv, State.reset_disciplined, by decide⟩

end Sys2Proof.Machine
end

section
/-! What the reference part of K4 does when chip-select ends a command: one equation for each command it knows, and what
a page program and a sector erase leave at every address of the array. -/

namespace Sys2Proof.Machine

variable {p : RefPart} {n : Nat}

/-! ### The bytes received -/

theorem RefPart.foldl_receive (p : RefPart) (bs : List Byte) :
    bs.foldl RefPart.receive p = { p with rx := p.rx ++ bs } := by
  induction bs generalizing p with
  | nil => simp
  | cons b bs ih => simp [ih, RefPart.receive]

theorem RefPart.receive_command (p : RefPart) (op : Byte) (bs : List Byte) :
    bs.foldl RefPart.receive (p.select.receive op) = { p with rx := op :: bs, sent := 0 } := by
  rw [RefPart.foldl_receive]; rfl

/-! ### The commands -/

theorem RefPart.deselect_writeEnable (p : RefPart) (n : Nat) (bs : List Byte) :
    { p with rx := 0x06#8 :: bs, sent := 0 }.deselect n = { p with sr := p.sr ||| maskWel }.select := by
  simp [RefPart.deselect, RefPart.select]

theorem RefPart.deselect_of_wel_clear (hwel : p.sr &&& maskWel = 0#8) {op : Byte} (hop : op ≠ 0x06#8)
    (bs : List Byte) : { p with rx := op :: bs, sent := 0 }.deselect n = p.select := by
  simp [RefPart.deselect, RefPart.select, hop, hwel]

theorem RefPart.deselect_statusWrite (hwel : p.sr &&& maskWel ≠ 0#8) (v : Byte) :
    { p with rx := [0x01#8, v], sent := 0 }.deselect n =
      { p with sr := (v &&& 0xFC#8) ||| (p.sr &&& 0x03#8) }.select.busyFor n := by
  simp [RefPart.deselect, RefPart.select, hwel]

theorem RefPart.deselect_pageProgram (hwel : p.sr &&& maskWel ≠ 0#8) (b2 b1 b0 : Byte) (data : List Byte) :
    { p with rx := 0x02#8 :: b2 :: b1 :: b0 :: data, sent := 0 }.deselect n =
      { p with array := programBytes p.size (wireOffset b2 b1 b0) 0 data p.array }.select.busyFor n := by
  simp [RefPart.deselect, RefPart.select, hwel]

theorem RefPart.deselect_sectorErase (hwel : p.sr &&& maskWel ≠ 0#8) (b2 b1 b0 : Byte) :
    let base := (wireOffset b2 b1 b0).toNat / p.sectorSize * p.sectorSize
    { p with rx := [0xD8#8, b2, b1, b0], sent := 0 }.deselect n =
      { p with array := Memory.clear p.array base (base + p.sectorSize) }.select.busyFor n := by
  simp [RefPart.deselect, RefPart.select, hwel]

/-! ### The busy part -/

@[simp] theorem RefPart.busyFor_busyReads (p : RefPart) (n : Nat) : (p.busyFor n).busyReads = n := by
  unfold RefPart.busyFor; split <;> simp_all

theorem RefPart.busyFor_sr (p : RefPart) (hn : n ≠ 0) : (p.busyFor n).sr = p.sr ||| maskWip := by
  simp [RefPart.busyFor, hn]

/-! ### The array -/

theorem Memory.read_write {m : Memory} (h : Memory.wf m = true) (a : Nat) (b : Byte) (loc : Nat) :
    Memory.read (Memory.write m a b) loc = if a = loc then b else Memory.read m loc := by
  split
  case isTrue heq => subst heq; exact Memory.read_write_same m a b h
  case isFalse hne => exact Memory.read_write_other m a loc b (Ne.symm hne)

/-- The and of the data bytes that land at `loc`, in order; those that land elsewhere or beyond the end change nothing
there. -/
theorem read_programBytes (size : Nat) (a : BitVec 24) (k : Nat) (ds : List Byte) {m : Memory}
    (hm : Memory.wf m = true) (loc : Nat) :
    Memory.read (programBytes size a k ds m) loc =
      if loc < size then
        ((ds.zipIdx k).filter fun dk => pageAddress a dk.2 = loc).foldl (fun byte dk => byte &&& dk.1)
          (Memory.read m loc)
      else Memory.read m loc := by
  induction ds generalizing k m with
  | nil => simp [programBytes]
  | cons d ds ih =>
    rw [programBytes]
    by_cases hin : pageAddress a k < size
    · simp only [hin, if_true, ih _ (Memory.wf_write _ _ hm), Memory.read_write hm]
      by_cases hloc : pageAddress a k = loc
      · have hlt : loc < size := hloc ▸ hin
        simp [hlt, hloc]
      · simp [hloc]
    · have hloc : loc < size → pageAddress a k ≠ loc := by omega
      simp only [hin, if_false, ih _ hm]
      split
      · next h => simp [hloc h]
      · rfl

theorem div_eq_iff_in_sector {c : Nat} (hc : 0 < c) (a o : Nat) :
    a / c = o / c ↔ o / c * c ≤ a ∧ a < o / c * c + c := by
  rw [Nat.div_eq_iff hc]; omega

theorem read_clear_sector (m : Memory) {c : Nat} (hc : 0 < c) (o a : Nat) :
    Memory.read (Memory.clear m (o / c * c) (o / c * c + c)) a =
      if a / c = o / c then Memory.blank else Memory.read m a := by
  split
  case isTrue h => exact Memory.read_clear_inside _ _ _ _ ((div_eq_iff_in_sector hc a o).1 h)
  case isFalse h =>
    refine Memory.read_clear_outside _ _ _ _ ?_
    have := mt (div_eq_iff_in_sector hc a o).2 h
    omega

/-! ### The statement -/

/-- Settles O60: the equation of each command, the array read at every address, and the two cases of chip-select. -/
theorem referencePartCommands : Obligations.ReferencePartCommands := by
  unfold Obligations.ReferencePartCommands
  intro p n
  have hwren : (p.select.receive 0x06).deselect n = { p with sr := p.sr ||| maskWel }.select :=
    p.deselect_writeEnable n []
  refine ⟨by rw [hwren]; rfl, by rw [hwren]; rfl, ?welClear, ?statusWrite, ?pageProgram, ?sectorErase, ?chipSelect⟩
  case welClear =>
    intro op bs hop hwel
    rw [RefPart.receive_command, RefPart.deselect_of_wel_clear hwel hop]
  case statusWrite =>
    intro v hwel hn q
    have hq : q = { p with sr := (v &&& 0xFC#8) ||| (p.sr &&& 0x03#8) }.select.busyFor n :=
      RefPart.deselect_statusWrite hwel v
    rw [hq, RefPart.busyFor_sr _ hn, RefPart.busyFor_array, RefPart.busyFor_busyReads]
    exact ⟨rfl, rfl, rfl⟩
  case pageProgram =>
    intro b2 b1 b0 data hwel hwf a q
    have hq : q = { p with array := programBytes p.size (wireOffset b2 b1 b0) 0 data p.array }.select.busyFor n := by
      rw [← RefPart.deselect_pageProgram hwel, ← RefPart.receive_command]; rfl
    rw [hq, RefPart.busyFor_array, RefPart.busyFor_busyReads]
    refine ⟨rfl, RefPart.busyFor_sr _, fun loc => ?_⟩
    simp only [Nat.mod_add_mod]
    exact read_programBytes _ _ 0 data hwf loc
  case sectorErase =>
    intro b2 b1 b0 hwel hsize q
    have hq : q = _ := RefPart.deselect_sectorErase hwel b2 b1 b0
    rw [hq, RefPart.busyFor_array, RefPart.busyFor_busyReads]
    exact ⟨rfl, RefPart.busyFor_sr _, read_clear_sector _ hsize _⟩
  case chipSelect =>
    intro s w hpart hw
    have hw' : selected w = true := by simp [selected, hw]
    have hpartSelect : (s.ctrlWrite w).part = (s.partSelect w).part := rfl
    rw [hpartSelect]
    constructor
    · intro hhigh
      rw [State.partSelect_goes_low (by simp [selected, hhigh]) hw', hpart]
      rfl
    · intro hlow
      rw [State.partSelect_stays_low (by simp [selected, hlow]) hw', hpart]

end Sys2Proof.Machine
end
